-- ==== Sys2Proof/Word.lean ====
section
/-! DEFINITION. The words of the four formats (30_encoding rules R60, R64, R66, R68, R69) and the tagged word that the
machine takes as its next stimulus. A format is not part of a word's bits: it is where the word is presented (log 12). -/
namespace Sys2Proof

/-- A command word, 32 bits (R64). -/
abbrev CmdWord := BitVec 32

/-- A slot word, 8 bits (R66). -/
abbrev SlotWord := BitVec 8

/-- An access-type word, 6 bits (R68). -/
abbrev AccWord := BitVec 6

/-- A graphics-mode selector, 3 bits (R69). -/
abbrev GModeWord := BitVec 3

/-- A word with the port it is presented at: `cmd` the interface; `internal` a substrate operation that is a step of
other operations (R65); `slot`, `acc`, `gmode` the words that STEP forms for itself (R66, R68, R69). -/
inductive Fetch where
  | cmd (w : CmdWord)
  | internal (w : CmdWord)
  | slot (w : SlotWord)
  | acc (w : AccWord)
  | gmode (w : GModeWord)
deriving DecidableEq, Repr

end Sys2Proof
end

