-- ==== Sys2Proof/Syntax.lean ====
section
/-! DEFINITION. The syntax of the machine: the enumerations of 30_encoding rules R61 to R63 and R68, the coordinate phase,
the operand types, the contract violations of 60_exceptions rule R221, and `Instr`: one constructor per row of
spec/opcode_table.json (31 CMD, 130 SLOT, 7 ACC and 8 GMODE rows). -/
namespace Sys2Proof

/-- Signal (R10, R61): `0`, `1` or `Z` (Floating); there is no fourth value. -/
inductive Signal where
  | low
  | high
  | floating
deriving DecidableEq, Repr

/-- Pin mode (R11, R62). -/
inductive Mode where
  | unconnected
  | input
  | output
  | bidirectional
deriving DecidableEq, Repr

/-- Pull (R11, R63). -/
inductive Pull where
  | none
  | up
  | down
deriving DecidableEq, Repr

/-- The phase of a half-cycle (R17): 1 or 2. -/
inductive Phase where
  | one
  | two
deriving DecidableEq, Repr

/-- The access type (R28, R68): computed fresh in every slot and never stored. -/
inductive AccessType where
  | idle
  | refresh
  | videoMatrixColor
  | bitmapChar
  | spritePointer (n : Fin 8)
  | spriteData (n : Fin 8)
  | cpuOwned
deriving DecidableEq, Repr

/-- A handle as a command word carries it (R64): 12 bits. Pins and traces are numbered in separate ranges. -/
abbrev Handle := BitVec 12

/-- A field id of VIC_SET_FIELD as a command word carries it (R65): 12 bits. -/
abbrev FieldId := BitVec 12

/-- The contract violations (60_exceptions R221), each with its info. -/
inductive Violation where
  /-- code 1: a Signal field holds `11`; info the word -/
  | reservedSignal (w : CmdWord)
  /-- code 2: a Pull field holds `11`; no command word carries one -/
  | reservedPull (w : BitVec 2)
  /-- code 3: an opcode that R65 does not have; info the word -/
  | unknownOpcode (w : CmdWord)
  /-- code 4: 0xF0 or 0xF1 presented at the interface; info the word -/
  | internalOpcode (w : CmdWord)
  /-- code 5: a pin handle that names no pin, or PIN_NEW of one that does; info the handle -/
  | noSuchPin (p : Nat)
  /-- code 6: a trace handle that names no trace, or TRACE_NEW of one that does; info the handle -/
  | noSuchTrace (t : Nat)
  /-- code 7: a field id that R65 does not have; info the id -/
  | noSuchField (f : FieldId)
  /-- code 8: a slot word with cycle 0 or above 65; info the word -/
  | badSlot (w : SlotWord)
  /-- code 9: a reserved access-type word; info the word -/
  | badAccessType (w : AccWord)
  /-- code 10: TRACE_ADD_PIN of a pin that is on another trace; info the pin -/
  | pinAlreadyOnTrace (p : Nat)
  /-- code 11: a c-access with `vmli >= 40`; info `vmli` -/
  | lineCacheIndex (vmli : BitVec 6)
deriving DecidableEq, Repr

/-- The instructions: one constructor per row of spec/opcode_table.json. -/
inductive Instr where
  /-- PIN_NEW, R84: create pin `p` with mode `m`. -/
  | pinNew (p : Handle) (m : Mode)
  /-- PIN_SET_LEVEL, R85: `setLevel(pin, value)`. -/
  | pinSetLevel (p : Handle) (v : Signal)
  /-- PIN_SET_MODE, R86: `setMode(pin, mode)`. -/
  | pinSetMode (p : Handle) (m : Mode)
  /-- PIN_PULL_UP, R87: `pullUp()`. -/
  | pinPullUp (p : Handle)
  /-- PIN_PULL_DOWN, R88: `pullDown()`. -/
  | pinPullDown (p : Handle)
  /-- PIN_NO_PULL, R89: `noPull()`. -/
  | pinNoPull (p : Handle)
  /-- PIN_ADD_LISTENER, R90: `addListener(callback)`, `l` the listener id. -/
  | pinAddListener (p : Handle) (l : Handle)
  /-- PIN_GET_LEVEL, R91: `level` get. -/
  | pinGetLevel (p : Handle)
  /-- PIN_GET_MODE, R92: `mode` get. -/
  | pinGetMode (p : Handle)
  /-- PIN_SET, R93: `set()`. -/
  | pinSet (p : Handle)
  /-- PIN_CLEAR, R94: `clear()`. -/
  | pinClear (p : Handle)
  /-- PIN_FLOAT, R95: `float()`. -/
  | pinFloat (p : Handle)
  /-- PIN_TOGGLE, R96: `toggle()`. -/
  | pinToggle (p : Handle)
  /-- TRACE_NEW, R97: create trace `t`. -/
  | traceNew (t : Handle)
  /-- TRACE_ADD_PIN, R98: `addPins(...)`, one pin. -/
  | traceAddPin (t : Handle) (p : Handle)
  /-- TRACE_SET_LEVEL, R99: trace `level` set. -/
  | traceSetLevel (t : Handle) (v : Signal)
  /-- TRACE_GET_LEVEL, R100: trace `level` get. -/
  | traceGetLevel (t : Handle)
  /-- TRACE_PULL_UP, R101. -/
  | tracePullUp (t : Handle)
  /-- TRACE_PULL_DOWN, R102. -/
  | tracePullDown (t : Handle)
  /-- TRACE_NO_PULL, R103. -/
  | traceNoPull (t : Handle)
  /-- TRACE_SET, R104. -/
  | traceSet (t : Handle)
  /-- TRACE_CLEAR, R105. -/
  | traceClear (t : Handle)
  /-- TRACE_FLOAT, R106. -/
  | traceFloat (t : Handle)
  /-- TRACE_TOGGLE, R107. -/
  | traceToggle (t : Handle)
  /-- VIC_TICK, R127: one half-cycle step. -/
  | vicTick
  /-- VIC_SET_FIELD, R232: write one register-input field. -/
  | vicSetField (f : FieldId) (value : BitVec 12)
  /-- VIC_WRITE_YEXPAND, R204: write the Y-expansion register. -/
  | vicWriteYExpand (value : BitVec 8)
  /-- VIC_WRITE_RASTER_COMPARE, R233: write the raster compare latch. -/
  | vicWriteRasterCompare (value : BitVec 9)
  /-- VIC_ACK_RASTER_IRQ, R234: acknowledge the raster interrupt. -/
  | vicAckRasterIrq
  /-- UPDATE_LEVEL, R83: the push of a trace level into one pin; internal (R71). -/
  | updateLevel (p : Handle)
  /-- RESOLVE_AND_PUSH, R82: one resolution of a trace and its push; internal (R71). -/
  | resolveAndPush (t : Handle) (pending : Signal)
  -- The 130 slot words of R67, SLOT_P<phase>_C<cycle> (R140 for phase 1, R141 for phase 2).
  | slotP1C01 | slotP1C02 | slotP1C03 | slotP1C04 | slotP1C05 | slotP1C06 | slotP1C07 | slotP1C08
  | slotP1C09 | slotP1C10 | slotP1C11 | slotP1C12 | slotP1C13 | slotP1C14 | slotP1C15 | slotP1C16
  | slotP1C17 | slotP1C18 | slotP1C19 | slotP1C20 | slotP1C21 | slotP1C22 | slotP1C23 | slotP1C24
  | slotP1C25 | slotP1C26 | slotP1C27 | slotP1C28 | slotP1C29 | slotP1C30 | slotP1C31 | slotP1C32
  | slotP1C33 | slotP1C34 | slotP1C35 | slotP1C36 | slotP1C37 | slotP1C38 | slotP1C39 | slotP1C40
  | slotP1C41 | slotP1C42 | slotP1C43 | slotP1C44 | slotP1C45 | slotP1C46 | slotP1C47 | slotP1C48
  | slotP1C49 | slotP1C50 | slotP1C51 | slotP1C52 | slotP1C53 | slotP1C54 | slotP1C55 | slotP1C56
  | slotP1C57 | slotP1C58 | slotP1C59 | slotP1C60 | slotP1C61 | slotP1C62 | slotP1C63 | slotP1C64
  | slotP1C65 | slotP2C01 | slotP2C02 | slotP2C03 | slotP2C04 | slotP2C05 | slotP2C06 | slotP2C07
  | slotP2C08 | slotP2C09 | slotP2C10 | slotP2C11 | slotP2C12 | slotP2C13 | slotP2C14 | slotP2C15
  | slotP2C16 | slotP2C17 | slotP2C18 | slotP2C19 | slotP2C20 | slotP2C21 | slotP2C22 | slotP2C23
  | slotP2C24 | slotP2C25 | slotP2C26 | slotP2C27 | slotP2C28 | slotP2C29 | slotP2C30 | slotP2C31
  | slotP2C32 | slotP2C33 | slotP2C34 | slotP2C35 | slotP2C36 | slotP2C37 | slotP2C38 | slotP2C39
  | slotP2C40 | slotP2C41 | slotP2C42 | slotP2C43 | slotP2C44 | slotP2C45 | slotP2C46 | slotP2C47
  | slotP2C48 | slotP2C49 | slotP2C50 | slotP2C51 | slotP2C52 | slotP2C53 | slotP2C54 | slotP2C55
  | slotP2C56 | slotP2C57 | slotP2C58 | slotP2C59 | slotP2C60 | slotP2C61 | slotP2C62 | slotP2C63
  | slotP2C64 | slotP2C65
  /-- ACC_Idle, R143: i-access. -/
  | accIdle
  /-- ACC_Refresh, R144: r-access. -/
  | accRefresh
  /-- ACC_VideoMatrixColor, R145: c-access. -/
  | accVideoMatrixColor
  /-- ACC_BitmapChar, R146: g-access. -/
  | accBitmapChar
  /-- ACC_SpritePointer, R155: p-access of sprite `n`. -/
  | accSpritePointer (n : Fin 8)
  /-- ACC_SpriteData, R156: s-access of sprite `n`. -/
  | accSpriteData (n : Fin 8)
  /-- ACC_CpuOwned, R157: x-access. -/
  | accCpuOwned
  /-- GMODE_0, R147: g-access address in graphics mode 0. -/
  | gmode0
  /-- GMODE_1, R148: g-access address in graphics mode 1. -/
  | gmode1
  /-- GMODE_2, R149: g-access address in graphics mode 2. -/
  | gmode2
  /-- GMODE_3, R150: g-access address in graphics mode 3. -/
  | gmode3
  /-- GMODE_4, R151: g-access address in graphics mode 4. -/
  | gmode4
  /-- GMODE_5, R152: g-access address in graphics mode 5. -/
  | gmode5
  /-- GMODE_6, R153: g-access address in graphics mode 6. -/
  | gmode6
  /-- GMODE_7, R154: g-access address in graphics mode 7. -/
  | gmode7
deriving DecidableEq, Repr

/-- `inCap(m)` (R11): Input or Bidirectional. -/
def Mode.inCap : Mode → Bool
  | .unconnected => false
  | .input => true
  | .output => false
  | .bidirectional => true

/-- `outCap(m)` (R11): Output or Bidirectional. -/
def Mode.outCap : Mode → Bool
  | .unconnected => false
  | .input => false
  | .output => true
  | .bidirectional => true

/-- `PullLevel` (R63). -/
def Pull.level : Pull → Signal
  | .none => .floating
  | .up => .high
  | .down => .low

/-- The code of a contract violation (R221). -/
def Violation.code : Violation → Nat
  | .reservedSignal _ => 1
  | .reservedPull _ => 2
  | .unknownOpcode _ => 3
  | .internalOpcode _ => 4
  | .noSuchPin _ => 5
  | .noSuchTrace _ => 6
  | .noSuchField _ => 7
  | .badSlot _ => 8
  | .badAccessType _ => 9
  | .pinAlreadyOnTrace _ => 10
  | .lineCacheIndex _ => 11

/-- The half-cycle that a SLOT row names (R66, R67); none for the rows of the other formats. -/
def Instr.slotOf : Instr → Option (Phase × BitVec 7)
  | .pinNew _ _ => none
  | .pinSetLevel _ _ => none
  | .pinSetMode _ _ => none
  | .pinPullUp _ => none
  | .pinPullDown _ => none
  | .pinNoPull _ => none
  | .pinAddListener _ _ => none
  | .pinGetLevel _ => none
  | .pinGetMode _ => none
  | .pinSet _ => none
  | .pinClear _ => none
  | .pinFloat _ => none
  | .pinToggle _ => none
  | .traceNew _ => none
  | .traceAddPin _ _ => none
  | .traceSetLevel _ _ => none
  | .traceGetLevel _ => none
  | .tracePullUp _ => none
  | .tracePullDown _ => none
  | .traceNoPull _ => none
  | .traceSet _ => none
  | .traceClear _ => none
  | .traceFloat _ => none
  | .traceToggle _ => none
  | .vicTick => none
  | .vicSetField _ _ => none
  | .vicWriteYExpand _ => none
  | .vicWriteRasterCompare _ => none
  | .vicAckRasterIrq => none
  | .updateLevel _ => none
  | .resolveAndPush _ _ => none
  | .accIdle => none
  | .accRefresh => none
  | .accVideoMatrixColor => none
  | .accBitmapChar => none
  | .accSpritePointer _ => none
  | .accSpriteData _ => none
  | .accCpuOwned => none
  | .gmode0 => none
  | .gmode1 => none
  | .gmode2 => none
  | .gmode3 => none
  | .gmode4 => none
  | .gmode5 => none
  | .gmode6 => none
  | .gmode7 => none
  | .slotP1C01 => some (.one, 1)
  | .slotP1C02 => some (.one, 2)
  | .slotP1C03 => some (.one, 3)
  | .slotP1C04 => some (.one, 4)
  | .slotP1C05 => some (.one, 5)
  | .slotP1C06 => some (.one, 6)
  | .slotP1C07 => some (.one, 7)
  | .slotP1C08 => some (.one, 8)
  | .slotP1C09 => some (.one, 9)
  | .slotP1C10 => some (.one, 10)
  | .slotP1C11 => some (.one, 11)
  | .slotP1C12 => some (.one, 12)
  | .slotP1C13 => some (.one, 13)
  | .slotP1C14 => some (.one, 14)
  | .slotP1C15 => some (.one, 15)
  | .slotP1C16 => some (.one, 16)
  | .slotP1C17 => some (.one, 17)
  | .slotP1C18 => some (.one, 18)
  | .slotP1C19 => some (.one, 19)
  | .slotP1C20 => some (.one, 20)
  | .slotP1C21 => some (.one, 21)
  | .slotP1C22 => some (.one, 22)
  | .slotP1C23 => some (.one, 23)
  | .slotP1C24 => some (.one, 24)
  | .slotP1C25 => some (.one, 25)
  | .slotP1C26 => some (.one, 26)
  | .slotP1C27 => some (.one, 27)
  | .slotP1C28 => some (.one, 28)
  | .slotP1C29 => some (.one, 29)
  | .slotP1C30 => some (.one, 30)
  | .slotP1C31 => some (.one, 31)
  | .slotP1C32 => some (.one, 32)
  | .slotP1C33 => some (.one, 33)
  | .slotP1C34 => some (.one, 34)
  | .slotP1C35 => some (.one, 35)
  | .slotP1C36 => some (.one, 36)
  | .slotP1C37 => some (.one, 37)
  | .slotP1C38 => some (.one, 38)
  | .slotP1C39 => some (.one, 39)
  | .slotP1C40 => some (.one, 40)
  | .slotP1C41 => some (.one, 41)
  | .slotP1C42 => some (.one, 42)
  | .slotP1C43 => some (.one, 43)
  | .slotP1C44 => some (.one, 44)
  | .slotP1C45 => some (.one, 45)
  | .slotP1C46 => some (.one, 46)
  | .slotP1C47 => some (.one, 47)
  | .slotP1C48 => some (.one, 48)
  | .slotP1C49 => some (.one, 49)
  | .slotP1C50 => some (.one, 50)
  | .slotP1C51 => some (.one, 51)
  | .slotP1C52 => some (.one, 52)
  | .slotP1C53 => some (.one, 53)
  | .slotP1C54 => some (.one, 54)
  | .slotP1C55 => some (.one, 55)
  | .slotP1C56 => some (.one, 56)
  | .slotP1C57 => some (.one, 57)
  | .slotP1C58 => some (.one, 58)
  | .slotP1C59 => some (.one, 59)
  | .slotP1C60 => some (.one, 60)
  | .slotP1C61 => some (.one, 61)
  | .slotP1C62 => some (.one, 62)
  | .slotP1C63 => some (.one, 63)
  | .slotP1C64 => some (.one, 64)
  | .slotP1C65 => some (.one, 65)
  | .slotP2C01 => some (.two, 1)
  | .slotP2C02 => some (.two, 2)
  | .slotP2C03 => some (.two, 3)
  | .slotP2C04 => some (.two, 4)
  | .slotP2C05 => some (.two, 5)
  | .slotP2C06 => some (.two, 6)
  | .slotP2C07 => some (.two, 7)
  | .slotP2C08 => some (.two, 8)
  | .slotP2C09 => some (.two, 9)
  | .slotP2C10 => some (.two, 10)
  | .slotP2C11 => some (.two, 11)
  | .slotP2C12 => some (.two, 12)
  | .slotP2C13 => some (.two, 13)
  | .slotP2C14 => some (.two, 14)
  | .slotP2C15 => some (.two, 15)
  | .slotP2C16 => some (.two, 16)
  | .slotP2C17 => some (.two, 17)
  | .slotP2C18 => some (.two, 18)
  | .slotP2C19 => some (.two, 19)
  | .slotP2C20 => some (.two, 20)
  | .slotP2C21 => some (.two, 21)
  | .slotP2C22 => some (.two, 22)
  | .slotP2C23 => some (.two, 23)
  | .slotP2C24 => some (.two, 24)
  | .slotP2C25 => some (.two, 25)
  | .slotP2C26 => some (.two, 26)
  | .slotP2C27 => some (.two, 27)
  | .slotP2C28 => some (.two, 28)
  | .slotP2C29 => some (.two, 29)
  | .slotP2C30 => some (.two, 30)
  | .slotP2C31 => some (.two, 31)
  | .slotP2C32 => some (.two, 32)
  | .slotP2C33 => some (.two, 33)
  | .slotP2C34 => some (.two, 34)
  | .slotP2C35 => some (.two, 35)
  | .slotP2C36 => some (.two, 36)
  | .slotP2C37 => some (.two, 37)
  | .slotP2C38 => some (.two, 38)
  | .slotP2C39 => some (.two, 39)
  | .slotP2C40 => some (.two, 40)
  | .slotP2C41 => some (.two, 41)
  | .slotP2C42 => some (.two, 42)
  | .slotP2C43 => some (.two, 43)
  | .slotP2C44 => some (.two, 44)
  | .slotP2C45 => some (.two, 45)
  | .slotP2C46 => some (.two, 46)
  | .slotP2C47 => some (.two, 47)
  | .slotP2C48 => some (.two, 48)
  | .slotP2C49 => some (.two, 49)
  | .slotP2C50 => some (.two, 50)
  | .slotP2C51 => some (.two, 51)
  | .slotP2C52 => some (.two, 52)
  | .slotP2C53 => some (.two, 53)
  | .slotP2C54 => some (.two, 54)
  | .slotP2C55 => some (.two, 55)
  | .slotP2C56 => some (.two, 56)
  | .slotP2C57 => some (.two, 57)
  | .slotP2C58 => some (.two, 58)
  | .slotP2C59 => some (.two, 59)
  | .slotP2C60 => some (.two, 60)
  | .slotP2C61 => some (.two, 61)
  | .slotP2C62 => some (.two, 62)
  | .slotP2C63 => some (.two, 63)
  | .slotP2C64 => some (.two, 64)
  | .slotP2C65 => some (.two, 65)

end Sys2Proof
end

