-- ==== Sys2Proof/Config.lean ====
section
/-! DEFINITION. The implementation parameters of 00_scope rule R4 in one record, with the values this hardware takes, and
the free values (log 11). Widths are the types' own (R4: VC_WIDTH is the 10 of `BitVec 10`, and so on). -/
namespace Sys2Proof

/-- One entry of SPRITE_DATA_SLOTS (R4, R142): sprite, cycle, phase. -/
structure DataSlot where
  sprite : Fin 8
  cycle  : Nat
  phase  : Phase
deriving DecidableEq, Repr

/-- The parameters of R4 that are values. -/
structure Params where
  /-- CYCLES_PER_LINE -/
  cyclesPerLine  : Nat
  /-- LINES_PER_FRAME -/
  linesPerFrame  : Nat
  /-- BADLINE_FIRST, BADLINE_LAST -/
  badLineFirst   : Nat
  badLineLast    : Nat
  /-- MCBASE_END -/
  mcbaseEnd      : BitVec 12
  /-- the value of `ref` at frame start -/
  refreshReset   : BitVec 8
  /-- IDLE_ADDR, IDLE_ADDR_ECM -/
  idleAddr       : BitVec 14
  idleAddrEcm    : BitVec 14
  /-- REFRESH_BASE -/
  refreshBase    : BitVec 14
  /-- SPRITE_PTR_OFFSET -/
  spritePtrOffset : BitVec 14
  /-- PTR_CYCLE[0..7] -/
  ptrCycle       : Vector Nat 8
  /-- SPRITE_DATA_SLOTS -/
  dataSlots      : List DataSlot
  /-- REFRESH_CYCLES, phase 1 -/
  refreshFirst   : Nat
  refreshLast    : Nat
  /-- G_CYCLES, phase 1 -/
  gFirst         : Nat
  gLast          : Nat
  /-- C_CYCLES, phase 2 -/
  cFirst         : Nat
  cLast          : Nat
  /-- BA_LEAD -/
  baLead         : Nat
  /-- DEN_SAMPLE_LINE -/
  denSampleLine  : BitVec 9
  /-- FLOAT_READS_AS -/
  floatReadsAs   : Bool
deriving DecidableEq, Repr

/-- The value column of R4. DEN_SAMPLE_LINE, PTR_CYCLE, SPRITE_DATA_SLOTS and FLOAT_READS_AS are the spec's own decisions
(D20, D21, D22, D30; log 18, log 19). -/
def Config.hw : Params where
  cyclesPerLine := 65
  linesPerFrame := 263
  badLineFirst := 0x30
  badLineLast := 0xF7
  mcbaseEnd := 63
  refreshReset := 255
  idleAddr := 0x3FFF
  idleAddrEcm := 0x39FF
  refreshBase := 0x3F00
  spritePtrOffset := 0x3F8
  ptrCycle := #v[60, 62, 64, 2, 4, 6, 8, 10]
  dataSlots := [⟨0, 60, .two⟩, ⟨0, 61, .one⟩, ⟨1, 62, .two⟩, ⟨1, 63, .one⟩, ⟨2, 64, .two⟩, ⟨2, 65, .one⟩,
    ⟨3, 2, .two⟩, ⟨3, 3, .one⟩, ⟨4, 4, .two⟩, ⟨4, 5, .one⟩, ⟨5, 6, .two⟩, ⟨5, 7, .one⟩,
    ⟨6, 8, .two⟩, ⟨6, 9, .one⟩, ⟨7, 10, .two⟩]
  refreshFirst := 11
  refreshLast := 15
  gFirst := 16
  gLast := 55
  cFirst := 15
  cLast := 54
  baLead := 3
  denSampleLine := 0x30
  floatReadsAs := false

/-- FREE VALUE (log 11): the line-cache byte of a g-access made where R146 names no column. -/
opaque Config.freeByte : Nat → BitVec 8

/-- FREE VALUE (log 11): the column of a g-access made where R146 names no column. -/
opaque Config.freeCol : Nat → BitVec 10

end Sys2Proof
end

