-- ==== Sys2Proof/WellFormed.lean ====
section
/-! DEFINITION. Which instruction terms are well formed: the format each instruction is written in (R60), what the interface
accepts (R65, R71), and the one operand check that the types do not carry: a field id names a field (R65, R71). -/
namespace Sys2Proof

/-- The formats of R60; `internal` is the CMD format of the two operations that the interface does not accept. -/
inductive Format where
  | cmd
  | internal
  | slot
  | acc
  | gmode
deriving DecidableEq, Repr

/-- The format of each row of the opcode table. -/
def Instr.format : Instr → Format
  | .pinNew _ _ => .cmd
  | .pinSetLevel _ _ => .cmd
  | .pinSetMode _ _ => .cmd
  | .pinPullUp _ => .cmd
  | .pinPullDown _ => .cmd
  | .pinNoPull _ => .cmd
  | .pinAddListener _ _ => .cmd
  | .pinGetLevel _ => .cmd
  | .pinGetMode _ => .cmd
  | .pinSet _ => .cmd
  | .pinClear _ => .cmd
  | .pinFloat _ => .cmd
  | .pinToggle _ => .cmd
  | .traceNew _ => .cmd
  | .traceAddPin _ _ => .cmd
  | .traceSetLevel _ _ => .cmd
  | .traceGetLevel _ => .cmd
  | .tracePullUp _ => .cmd
  | .tracePullDown _ => .cmd
  | .traceNoPull _ => .cmd
  | .traceSet _ => .cmd
  | .traceClear _ => .cmd
  | .traceFloat _ => .cmd
  | .traceToggle _ => .cmd
  | .vicTick => .cmd
  | .vicSetField _ _ => .cmd
  | .vicWriteYExpand _ => .cmd
  | .vicWriteRasterCompare _ => .cmd
  | .vicAckRasterIrq => .cmd
  | .updateLevel _ => .internal
  | .resolveAndPush _ _ => .internal
  | .slotP1C01 => .slot
  | .slotP1C02 => .slot
  | .slotP1C03 => .slot
  | .slotP1C04 => .slot
  | .slotP1C05 => .slot
  | .slotP1C06 => .slot
  | .slotP1C07 => .slot
  | .slotP1C08 => .slot
  | .slotP1C09 => .slot
  | .slotP1C10 => .slot
  | .slotP1C11 => .slot
  | .slotP1C12 => .slot
  | .slotP1C13 => .slot
  | .slotP1C14 => .slot
  | .slotP1C15 => .slot
  | .slotP1C16 => .slot
  | .slotP1C17 => .slot
  | .slotP1C18 => .slot
  | .slotP1C19 => .slot
  | .slotP1C20 => .slot
  | .slotP1C21 => .slot
  | .slotP1C22 => .slot
  | .slotP1C23 => .slot
  | .slotP1C24 => .slot
  | .slotP1C25 => .slot
  | .slotP1C26 => .slot
  | .slotP1C27 => .slot
  | .slotP1C28 => .slot
  | .slotP1C29 => .slot
  | .slotP1C30 => .slot
  | .slotP1C31 => .slot
  | .slotP1C32 => .slot
  | .slotP1C33 => .slot
  | .slotP1C34 => .slot
  | .slotP1C35 => .slot
  | .slotP1C36 => .slot
  | .slotP1C37 => .slot
  | .slotP1C38 => .slot
  | .slotP1C39 => .slot
  | .slotP1C40 => .slot
  | .slotP1C41 => .slot
  | .slotP1C42 => .slot
  | .slotP1C43 => .slot
  | .slotP1C44 => .slot
  | .slotP1C45 => .slot
  | .slotP1C46 => .slot
  | .slotP1C47 => .slot
  | .slotP1C48 => .slot
  | .slotP1C49 => .slot
  | .slotP1C50 => .slot
  | .slotP1C51 => .slot
  | .slotP1C52 => .slot
  | .slotP1C53 => .slot
  | .slotP1C54 => .slot
  | .slotP1C55 => .slot
  | .slotP1C56 => .slot
  | .slotP1C57 => .slot
  | .slotP1C58 => .slot
  | .slotP1C59 => .slot
  | .slotP1C60 => .slot
  | .slotP1C61 => .slot
  | .slotP1C62 => .slot
  | .slotP1C63 => .slot
  | .slotP1C64 => .slot
  | .slotP1C65 => .slot
  | .slotP2C01 => .slot
  | .slotP2C02 => .slot
  | .slotP2C03 => .slot
  | .slotP2C04 => .slot
  | .slotP2C05 => .slot
  | .slotP2C06 => .slot
  | .slotP2C07 => .slot
  | .slotP2C08 => .slot
  | .slotP2C09 => .slot
  | .slotP2C10 => .slot
  | .slotP2C11 => .slot
  | .slotP2C12 => .slot
  | .slotP2C13 => .slot
  | .slotP2C14 => .slot
  | .slotP2C15 => .slot
  | .slotP2C16 => .slot
  | .slotP2C17 => .slot
  | .slotP2C18 => .slot
  | .slotP2C19 => .slot
  | .slotP2C20 => .slot
  | .slotP2C21 => .slot
  | .slotP2C22 => .slot
  | .slotP2C23 => .slot
  | .slotP2C24 => .slot
  | .slotP2C25 => .slot
  | .slotP2C26 => .slot
  | .slotP2C27 => .slot
  | .slotP2C28 => .slot
  | .slotP2C29 => .slot
  | .slotP2C30 => .slot
  | .slotP2C31 => .slot
  | .slotP2C32 => .slot
  | .slotP2C33 => .slot
  | .slotP2C34 => .slot
  | .slotP2C35 => .slot
  | .slotP2C36 => .slot
  | .slotP2C37 => .slot
  | .slotP2C38 => .slot
  | .slotP2C39 => .slot
  | .slotP2C40 => .slot
  | .slotP2C41 => .slot
  | .slotP2C42 => .slot
  | .slotP2C43 => .slot
  | .slotP2C44 => .slot
  | .slotP2C45 => .slot
  | .slotP2C46 => .slot
  | .slotP2C47 => .slot
  | .slotP2C48 => .slot
  | .slotP2C49 => .slot
  | .slotP2C50 => .slot
  | .slotP2C51 => .slot
  | .slotP2C52 => .slot
  | .slotP2C53 => .slot
  | .slotP2C54 => .slot
  | .slotP2C55 => .slot
  | .slotP2C56 => .slot
  | .slotP2C57 => .slot
  | .slotP2C58 => .slot
  | .slotP2C59 => .slot
  | .slotP2C60 => .slot
  | .slotP2C61 => .slot
  | .slotP2C62 => .slot
  | .slotP2C63 => .slot
  | .slotP2C64 => .slot
  | .slotP2C65 => .slot
  | .accIdle => .acc
  | .accRefresh => .acc
  | .accVideoMatrixColor => .acc
  | .accBitmapChar => .acc
  | .accSpritePointer _ => .acc
  | .accSpriteData _ => .acc
  | .accCpuOwned => .acc
  | .gmode0 => .gmode
  | .gmode1 => .gmode
  | .gmode2 => .gmode
  | .gmode3 => .gmode
  | .gmode4 => .gmode
  | .gmode5 => .gmode
  | .gmode6 => .gmode
  | .gmode7 => .gmode

/-- The interface accepts the operations of R65 except the two internal ones (R65, R71). -/
def Instr.atInterface (i : Instr) : Bool := i.format == .cmd

/-- The field ids of R65: 0 to 8, and 0x10 + n for `spriteY[n]`, n in 0..7. -/
def FieldId.valid (f : FieldId) : Bool := f.toNat ≤ 8 || (0x10 ≤ f.toNat && f.toNat ≤ 0x17)

/-- An instruction is well formed when its field id, if it has one, names a field (R71). -/
def WellFormed : Instr → Bool
  | .vicSetField f _ => f.valid
  | _ => true

end Sys2Proof
end

