-- ==== Sys2Proof/Decode.lean ====
section
/-! DEFINITION. Decoding and encoding (30_encoding). The decoder is total on the words of every format and rejects by a named
contract violation (R71, R221); the encoder writes the same tables the other way. -/
namespace Sys2Proof

/-- Signal, 2 bits (R61); `11` is reserved. `w` is the word that carries the field, for the fault's info. -/
def decodeSignal (w : CmdWord) (x : BitVec 2) : Except Violation Signal :=
  match x with
  | 0b00#2 => .ok .low
  | 0b01#2 => .ok .high
  | 0b10#2 => .ok .floating
  | 0b11#2 => .error (.reservedSignal w)

/-- Pin mode, 2 bits (R62); every value names a mode. -/
def decodeMode (x : BitVec 2) : Mode :=
  match x with
  | 0b00#2 => .unconnected
  | 0b01#2 => .input
  | 0b10#2 => .output
  | 0b11#2 => .bidirectional

/-- Pull, 2 bits (R63); `11` is reserved. No command word carries a pull field (95_test_vectors V29). -/
def decodePull (x : BitVec 2) : Except Violation Pull :=
  match x with
  | 0b00#2 => .ok .none
  | 0b01#2 => .ok .up
  | 0b10#2 => .ok .down
  | 0b11#2 => .error (.reservedPull x)

def encodeSignal : Signal → BitVec 2
  | .low => 0b00
  | .high => 0b01
  | .floating => 0b10

def encodeMode : Mode → BitVec 2
  | .unconnected => 0b00
  | .input => 0b01
  | .output => 0b10
  | .bidirectional => 0b11

def encodePull : Pull → BitVec 2
  | .none => 0b00
  | .up => 0b01
  | .down => 0b10

/-- `op = w[31:24]` (R64). -/
def opOf (w : CmdWord) : BitVec 8 := w.extractLsb' 24 8

/-- `a = w[23:12]` (R64). -/
def aOf (w : CmdWord) : BitVec 12 := w.extractLsb' 12 12

/-- `b = w[11:0]` (R64). -/
def bOf (w : CmdWord) : BitVec 12 := w.extractLsb' 0 12

/-- `b[1:0]`: where a Signal or a mode stands (R65). -/
def bLow (w : CmdWord) : BitVec 2 := w.extractLsb' 0 2

/-- The operation map (R65), internal operations included. Bits an operation does not use are ignored (R64). -/
def decodeOperation (w : CmdWord) : Except Violation Instr :=
  match (opOf w).toNat with
  | 0x01 => .ok (.pinNew (aOf w) (decodeMode (bLow w)))
  | 0x02 => (decodeSignal w (bLow w)).map (fun v => .pinSetLevel (aOf w) v)
  | 0x03 => .ok (.pinSetMode (aOf w) (decodeMode (bLow w)))
  | 0x04 => .ok (.pinPullUp (aOf w))
  | 0x05 => .ok (.pinPullDown (aOf w))
  | 0x06 => .ok (.pinNoPull (aOf w))
  | 0x07 => .ok (.pinAddListener (aOf w) (bOf w))
  | 0x08 => .ok (.pinGetLevel (aOf w))
  | 0x09 => .ok (.pinGetMode (aOf w))
  | 0x0A => .ok (.pinSet (aOf w))
  | 0x0B => .ok (.pinClear (aOf w))
  | 0x0C => .ok (.pinFloat (aOf w))
  | 0x0D => .ok (.pinToggle (aOf w))
  | 0x10 => .ok (.traceNew (aOf w))
  | 0x11 => .ok (.traceAddPin (aOf w) (bOf w))
  | 0x12 => (decodeSignal w (bLow w)).map (fun v => .traceSetLevel (aOf w) v)
  | 0x13 => .ok (.traceGetLevel (aOf w))
  | 0x14 => .ok (.tracePullUp (aOf w))
  | 0x15 => .ok (.tracePullDown (aOf w))
  | 0x16 => .ok (.traceNoPull (aOf w))
  | 0x1A => .ok (.traceSet (aOf w))
  | 0x1B => .ok (.traceClear (aOf w))
  | 0x1C => .ok (.traceFloat (aOf w))
  | 0x1D => .ok (.traceToggle (aOf w))
  | 0x20 => .ok .vicTick
  | 0x21 => .ok (.vicSetField (aOf w) (bOf w))
  | 0x22 => .ok (.vicWriteYExpand (w.extractLsb' 0 8))
  | 0x23 => .ok (.vicWriteRasterCompare (w.extractLsb' 0 9))
  | 0x24 => .ok .vicAckRasterIrq
  | 0xF0 => .ok (.updateLevel (aOf w))
  | 0xF1 => (decodeSignal w (bLow w)).map (fun v => .resolveAndPush (aOf w) v)
  | _ => .error (.unknownOpcode w)

/-- 0xF0 and 0xF1 are the internal opcodes (R65). -/
def isInternalOp (w : CmdWord) : Bool := opOf w == 0xF0 || opOf w == 0xF1

/-- A word presented at the interface (R71): the internal opcodes are refused there, whatever their operands (log 13). -/
def decodeCmd (w : CmdWord) : Except Violation Instr :=
  if isInternalOp w then .error (.internalOpcode w) else decodeOperation w

/-- A word of the internal operations: only the two of R65. -/
def decodeInternal (w : CmdWord) : Except Violation Instr :=
  if isInternalOp w then decodeOperation w else .error (.unknownOpcode w)

/-- The slot words of phase 1, cycles 1 to 65 in order (R67). -/
def slotRows1 : List Instr :=
  ([.slotP1C01, .slotP1C02, .slotP1C03, .slotP1C04, .slotP1C05, .slotP1C06, .slotP1C07, .slotP1C08, .slotP1C09, .slotP1C10, .slotP1C11, .slotP1C12, .slotP1C13] : List Instr) ++
  ([.slotP1C14, .slotP1C15, .slotP1C16, .slotP1C17, .slotP1C18, .slotP1C19, .slotP1C20, .slotP1C21, .slotP1C22, .slotP1C23, .slotP1C24, .slotP1C25, .slotP1C26] : List Instr) ++
  ([.slotP1C27, .slotP1C28, .slotP1C29, .slotP1C30, .slotP1C31, .slotP1C32, .slotP1C33, .slotP1C34, .slotP1C35, .slotP1C36, .slotP1C37, .slotP1C38, .slotP1C39] : List Instr) ++
  ([.slotP1C40, .slotP1C41, .slotP1C42, .slotP1C43, .slotP1C44, .slotP1C45, .slotP1C46, .slotP1C47, .slotP1C48, .slotP1C49, .slotP1C50, .slotP1C51, .slotP1C52] : List Instr) ++
  ([.slotP1C53, .slotP1C54, .slotP1C55, .slotP1C56, .slotP1C57, .slotP1C58, .slotP1C59, .slotP1C60, .slotP1C61, .slotP1C62, .slotP1C63, .slotP1C64, .slotP1C65] : List Instr)

/-- The slot words of phase 2, cycles 1 to 65 in order (R67). -/
def slotRows2 : List Instr :=
  ([.slotP2C01, .slotP2C02, .slotP2C03, .slotP2C04, .slotP2C05, .slotP2C06, .slotP2C07, .slotP2C08, .slotP2C09, .slotP2C10, .slotP2C11, .slotP2C12, .slotP2C13] : List Instr) ++
  ([.slotP2C14, .slotP2C15, .slotP2C16, .slotP2C17, .slotP2C18, .slotP2C19, .slotP2C20, .slotP2C21, .slotP2C22, .slotP2C23, .slotP2C24, .slotP2C25, .slotP2C26] : List Instr) ++
  ([.slotP2C27, .slotP2C28, .slotP2C29, .slotP2C30, .slotP2C31, .slotP2C32, .slotP2C33, .slotP2C34, .slotP2C35, .slotP2C36, .slotP2C37, .slotP2C38, .slotP2C39] : List Instr) ++
  ([.slotP2C40, .slotP2C41, .slotP2C42, .slotP2C43, .slotP2C44, .slotP2C45, .slotP2C46, .slotP2C47, .slotP2C48, .slotP2C49, .slotP2C50, .slotP2C51, .slotP2C52] : List Instr) ++
  ([.slotP2C53, .slotP2C54, .slotP2C55, .slotP2C56, .slotP2C57, .slotP2C58, .slotP2C59, .slotP2C60, .slotP2C61, .slotP2C62, .slotP2C63, .slotP2C64, .slotP2C65] : List Instr)

/-- The phase bit of a slot word, `p = s[7]` (R66). -/
def slotPhase (s : SlotWord) : Phase := if s.getLsbD 7 then .two else .one

/-- The cycle field of a slot word, `c = s[6:0]` (R66). -/
def slotCycle (s : SlotWord) : BitVec 7 := s.extractLsb' 0 7

/-- A slot word (R66, R67): cycle 0 and the cycles above 65 are no slot (R71, code 8). -/
def decodeSlot (s : SlotWord) : Except Violation Instr :=
  let rows := match slotPhase s with
    | .one => slotRows1
    | .two => slotRows2
  if (slotCycle s).toNat = 0 then .error (.badSlot s)
  else match rows[(slotCycle s).toNat - 1]? with
    | some i => .ok i
    | none => .error (.badSlot s)

/-- The sprite number of an access-type word, `n = x[2:0]` (R68). -/
def accSprite (x : AccWord) : Fin 8 := (x.extractLsb' 0 3).toFin

/-- A non-sprite tag needs `n = 0` (R71, code 9). -/
def accPlain (x : AccWord) (i : Instr) : Except Violation Instr :=
  if accSprite x = 0 then .ok i else .error (.badAccessType x)

/-- An access-type word, `tag = x[5:3]` (R68, R71). -/
def decodeAcc (x : AccWord) : Except Violation Instr :=
  match x.extractLsb' 3 3 with
  | 0b000#3 => accPlain x .accIdle
  | 0b001#3 => accPlain x .accRefresh
  | 0b010#3 => accPlain x .accVideoMatrixColor
  | 0b011#3 => accPlain x .accBitmapChar
  | 0b100#3 => .ok (.accSpritePointer (accSprite x))
  | 0b101#3 => .ok (.accSpriteData (accSprite x))
  | 0b110#3 => accPlain x .accCpuOwned
  | 0b111#3 => .error (.badAccessType x)

/-- A graphics-mode selector (R69): all eight values are defined. -/
def decodeGMode (g : GModeWord) : Instr :=
  match g with
  | 0#3 => .gmode0
  | 1#3 => .gmode1
  | 2#3 => .gmode2
  | 3#3 => .gmode3
  | 4#3 => .gmode4
  | 5#3 => .gmode5
  | 6#3 => .gmode6
  | 7#3 => .gmode7

/-- The decoder: total on every word at every port. -/
def decode : Fetch → Except Violation Instr
  | .cmd w => decodeCmd w
  | .internal w => decodeInternal w
  | .slot s => decodeSlot s
  | .acc x => decodeAcc x
  | .gmode g => .ok (decodeGMode g)

/-- The port of a row of the opcode table (log 12): 32 bits are a command word, an internal operation's at the internal
port; 8 bits a slot word, 6 bits an access-type word, 3 bits a mode selector; no other width is an instruction's. -/
def fetchOfTableWord (nbits w : Nat) : Option Fetch :=
  match nbits with
  | 32 => if isInternalOp (BitVec.ofNat 32 w) then some (.internal (BitVec.ofNat 32 w)) else some (.cmd (BitVec.ofNat 32 w))
  | 8 => some (.slot (BitVec.ofNat 8 w))
  | 6 => some (.acc (BitVec.ofNat 6 w))
  | 3 => some (.gmode (BitVec.ofNat 3 w))
  | _ => none

/-- What the decoder reads from the bits `w` of a row of the opcode table. -/
def decodeTableWord (nbits w : Nat) : Option Instr :=
  match fetchOfTableWord nbits w with
  | some f => (decode f).toOption
  | none => none

/-! ## The encoder -/

/-- `op`, `a`, `b` put together (R64). -/
def cmdWord (op : BitVec 8) (a b : BitVec 12) : CmdWord := op ++ (a ++ b)

/-- An immediate in the low bits of `b`; the bits above it are written as zero (R64). -/
def immB {n : Nat} (v : BitVec n) : BitVec 12 := v.setWidth 12

/-- A slot word (R66). -/
def slotWord (ph : Phase) (c : BitVec 7) : SlotWord :=
  (match ph with
    | .one => 0#1
    | .two => 1#1) ++ c

/-- An access-type word (R68). -/
def accWord (tag : BitVec 3) (n : Fin 8) : AccWord := tag ++ BitVec.ofNat 3 n.val

/-- The word of an instruction, with the port it is presented at. Unused fields are written as zero (R64). -/
def encode : Instr → Fetch
  | .pinNew p m => .cmd (cmdWord 0x01 p (immB (encodeMode m)))
  | .pinSetLevel p v => .cmd (cmdWord 0x02 p (immB (encodeSignal v)))
  | .pinSetMode p m => .cmd (cmdWord 0x03 p (immB (encodeMode m)))
  | .pinPullUp p => .cmd (cmdWord 0x04 p 0)
  | .pinPullDown p => .cmd (cmdWord 0x05 p 0)
  | .pinNoPull p => .cmd (cmdWord 0x06 p 0)
  | .pinAddListener p l => .cmd (cmdWord 0x07 p l)
  | .pinGetLevel p => .cmd (cmdWord 0x08 p 0)
  | .pinGetMode p => .cmd (cmdWord 0x09 p 0)
  | .pinSet p => .cmd (cmdWord 0x0A p 0)
  | .pinClear p => .cmd (cmdWord 0x0B p 0)
  | .pinFloat p => .cmd (cmdWord 0x0C p 0)
  | .pinToggle p => .cmd (cmdWord 0x0D p 0)
  | .traceNew t => .cmd (cmdWord 0x10 t 0)
  | .traceAddPin t p => .cmd (cmdWord 0x11 t p)
  | .traceSetLevel t v => .cmd (cmdWord 0x12 t (immB (encodeSignal v)))
  | .traceGetLevel t => .cmd (cmdWord 0x13 t 0)
  | .tracePullUp t => .cmd (cmdWord 0x14 t 0)
  | .tracePullDown t => .cmd (cmdWord 0x15 t 0)
  | .traceNoPull t => .cmd (cmdWord 0x16 t 0)
  | .traceSet t => .cmd (cmdWord 0x1A t 0)
  | .traceClear t => .cmd (cmdWord 0x1B t 0)
  | .traceFloat t => .cmd (cmdWord 0x1C t 0)
  | .traceToggle t => .cmd (cmdWord 0x1D t 0)
  | .vicTick => .cmd (cmdWord 0x20 0 0)
  | .vicSetField f v => .cmd (cmdWord 0x21 f v)
  | .vicWriteYExpand v => .cmd (cmdWord 0x22 0 (immB v))
  | .vicWriteRasterCompare v => .cmd (cmdWord 0x23 0 (immB v))
  | .vicAckRasterIrq => .cmd (cmdWord 0x24 0 0)
  | .updateLevel p => .internal (cmdWord 0xF0 p 0)
  | .resolveAndPush t v => .internal (cmdWord 0xF1 t (immB (encodeSignal v)))
  | .slotP1C01 => .slot (slotWord .one 1)
  | .slotP1C02 => .slot (slotWord .one 2)
  | .slotP1C03 => .slot (slotWord .one 3)
  | .slotP1C04 => .slot (slotWord .one 4)
  | .slotP1C05 => .slot (slotWord .one 5)
  | .slotP1C06 => .slot (slotWord .one 6)
  | .slotP1C07 => .slot (slotWord .one 7)
  | .slotP1C08 => .slot (slotWord .one 8)
  | .slotP1C09 => .slot (slotWord .one 9)
  | .slotP1C10 => .slot (slotWord .one 10)
  | .slotP1C11 => .slot (slotWord .one 11)
  | .slotP1C12 => .slot (slotWord .one 12)
  | .slotP1C13 => .slot (slotWord .one 13)
  | .slotP1C14 => .slot (slotWord .one 14)
  | .slotP1C15 => .slot (slotWord .one 15)
  | .slotP1C16 => .slot (slotWord .one 16)
  | .slotP1C17 => .slot (slotWord .one 17)
  | .slotP1C18 => .slot (slotWord .one 18)
  | .slotP1C19 => .slot (slotWord .one 19)
  | .slotP1C20 => .slot (slotWord .one 20)
  | .slotP1C21 => .slot (slotWord .one 21)
  | .slotP1C22 => .slot (slotWord .one 22)
  | .slotP1C23 => .slot (slotWord .one 23)
  | .slotP1C24 => .slot (slotWord .one 24)
  | .slotP1C25 => .slot (slotWord .one 25)
  | .slotP1C26 => .slot (slotWord .one 26)
  | .slotP1C27 => .slot (slotWord .one 27)
  | .slotP1C28 => .slot (slotWord .one 28)
  | .slotP1C29 => .slot (slotWord .one 29)
  | .slotP1C30 => .slot (slotWord .one 30)
  | .slotP1C31 => .slot (slotWord .one 31)
  | .slotP1C32 => .slot (slotWord .one 32)
  | .slotP1C33 => .slot (slotWord .one 33)
  | .slotP1C34 => .slot (slotWord .one 34)
  | .slotP1C35 => .slot (slotWord .one 35)
  | .slotP1C36 => .slot (slotWord .one 36)
  | .slotP1C37 => .slot (slotWord .one 37)
  | .slotP1C38 => .slot (slotWord .one 38)
  | .slotP1C39 => .slot (slotWord .one 39)
  | .slotP1C40 => .slot (slotWord .one 40)
  | .slotP1C41 => .slot (slotWord .one 41)
  | .slotP1C42 => .slot (slotWord .one 42)
  | .slotP1C43 => .slot (slotWord .one 43)
  | .slotP1C44 => .slot (slotWord .one 44)
  | .slotP1C45 => .slot (slotWord .one 45)
  | .slotP1C46 => .slot (slotWord .one 46)
  | .slotP1C47 => .slot (slotWord .one 47)
  | .slotP1C48 => .slot (slotWord .one 48)
  | .slotP1C49 => .slot (slotWord .one 49)
  | .slotP1C50 => .slot (slotWord .one 50)
  | .slotP1C51 => .slot (slotWord .one 51)
  | .slotP1C52 => .slot (slotWord .one 52)
  | .slotP1C53 => .slot (slotWord .one 53)
  | .slotP1C54 => .slot (slotWord .one 54)
  | .slotP1C55 => .slot (slotWord .one 55)
  | .slotP1C56 => .slot (slotWord .one 56)
  | .slotP1C57 => .slot (slotWord .one 57)
  | .slotP1C58 => .slot (slotWord .one 58)
  | .slotP1C59 => .slot (slotWord .one 59)
  | .slotP1C60 => .slot (slotWord .one 60)
  | .slotP1C61 => .slot (slotWord .one 61)
  | .slotP1C62 => .slot (slotWord .one 62)
  | .slotP1C63 => .slot (slotWord .one 63)
  | .slotP1C64 => .slot (slotWord .one 64)
  | .slotP1C65 => .slot (slotWord .one 65)
  | .slotP2C01 => .slot (slotWord .two 1)
  | .slotP2C02 => .slot (slotWord .two 2)
  | .slotP2C03 => .slot (slotWord .two 3)
  | .slotP2C04 => .slot (slotWord .two 4)
  | .slotP2C05 => .slot (slotWord .two 5)
  | .slotP2C06 => .slot (slotWord .two 6)
  | .slotP2C07 => .slot (slotWord .two 7)
  | .slotP2C08 => .slot (slotWord .two 8)
  | .slotP2C09 => .slot (slotWord .two 9)
  | .slotP2C10 => .slot (slotWord .two 10)
  | .slotP2C11 => .slot (slotWord .two 11)
  | .slotP2C12 => .slot (slotWord .two 12)
  | .slotP2C13 => .slot (slotWord .two 13)
  | .slotP2C14 => .slot (slotWord .two 14)
  | .slotP2C15 => .slot (slotWord .two 15)
  | .slotP2C16 => .slot (slotWord .two 16)
  | .slotP2C17 => .slot (slotWord .two 17)
  | .slotP2C18 => .slot (slotWord .two 18)
  | .slotP2C19 => .slot (slotWord .two 19)
  | .slotP2C20 => .slot (slotWord .two 20)
  | .slotP2C21 => .slot (slotWord .two 21)
  | .slotP2C22 => .slot (slotWord .two 22)
  | .slotP2C23 => .slot (slotWord .two 23)
  | .slotP2C24 => .slot (slotWord .two 24)
  | .slotP2C25 => .slot (slotWord .two 25)
  | .slotP2C26 => .slot (slotWord .two 26)
  | .slotP2C27 => .slot (slotWord .two 27)
  | .slotP2C28 => .slot (slotWord .two 28)
  | .slotP2C29 => .slot (slotWord .two 29)
  | .slotP2C30 => .slot (slotWord .two 30)
  | .slotP2C31 => .slot (slotWord .two 31)
  | .slotP2C32 => .slot (slotWord .two 32)
  | .slotP2C33 => .slot (slotWord .two 33)
  | .slotP2C34 => .slot (slotWord .two 34)
  | .slotP2C35 => .slot (slotWord .two 35)
  | .slotP2C36 => .slot (slotWord .two 36)
  | .slotP2C37 => .slot (slotWord .two 37)
  | .slotP2C38 => .slot (slotWord .two 38)
  | .slotP2C39 => .slot (slotWord .two 39)
  | .slotP2C40 => .slot (slotWord .two 40)
  | .slotP2C41 => .slot (slotWord .two 41)
  | .slotP2C42 => .slot (slotWord .two 42)
  | .slotP2C43 => .slot (slotWord .two 43)
  | .slotP2C44 => .slot (slotWord .two 44)
  | .slotP2C45 => .slot (slotWord .two 45)
  | .slotP2C46 => .slot (slotWord .two 46)
  | .slotP2C47 => .slot (slotWord .two 47)
  | .slotP2C48 => .slot (slotWord .two 48)
  | .slotP2C49 => .slot (slotWord .two 49)
  | .slotP2C50 => .slot (slotWord .two 50)
  | .slotP2C51 => .slot (slotWord .two 51)
  | .slotP2C52 => .slot (slotWord .two 52)
  | .slotP2C53 => .slot (slotWord .two 53)
  | .slotP2C54 => .slot (slotWord .two 54)
  | .slotP2C55 => .slot (slotWord .two 55)
  | .slotP2C56 => .slot (slotWord .two 56)
  | .slotP2C57 => .slot (slotWord .two 57)
  | .slotP2C58 => .slot (slotWord .two 58)
  | .slotP2C59 => .slot (slotWord .two 59)
  | .slotP2C60 => .slot (slotWord .two 60)
  | .slotP2C61 => .slot (slotWord .two 61)
  | .slotP2C62 => .slot (slotWord .two 62)
  | .slotP2C63 => .slot (slotWord .two 63)
  | .slotP2C64 => .slot (slotWord .two 64)
  | .slotP2C65 => .slot (slotWord .two 65)
  | .accIdle => .acc (accWord 0b000 0)
  | .accRefresh => .acc (accWord 0b001 0)
  | .accVideoMatrixColor => .acc (accWord 0b010 0)
  | .accBitmapChar => .acc (accWord 0b011 0)
  | .accSpritePointer n => .acc (accWord 0b100 n)
  | .accSpriteData n => .acc (accWord 0b101 n)
  | .accCpuOwned => .acc (accWord 0b110 0)
  | .gmode0 => .gmode 0
  | .gmode1 => .gmode 1
  | .gmode2 => .gmode 2
  | .gmode3 => .gmode 3
  | .gmode4 => .gmode 4
  | .gmode5 => .gmode 5
  | .gmode6 => .gmode 6
  | .gmode7 => .gmode 7

end Sys2Proof
end

