-- ==== Sys2Proof/Machine/State.lean ====
section
/-! DEFINITION. The machine's state (10_state), as plain data: the substrate's pins and traces, the VIC block, and the model's
own fields (the parameters of a model that R28 names, the stimuli still to come, the outputs). Also the reasons a step can
stop, and the state after reset (R29). -/
namespace Sys2Proof.Machine

/-! ## The substrate (part A of 10_state) -/

/-- Records by handle, handles strictly rising, so that equal arenas are equal lists. -/
abbrev Arena (α : Type) := List (Nat × α)

/-- A pin (R11). `number` and `name` are its diagnostic identity; no rule reads them. -/
structure Pin where
  number    : Nat
  name      : String
  mode      : Mode
  pull      : Pull
  level     : Signal
  trace     : Option Nat
  listeners : List Nat
deriving DecidableEq, Repr

/-- A trace (R13); `members` in the order of the add operations, no duplicates. -/
structure Trace where
  members : List Nat
  pull    : Pull
  level   : Signal
deriving DecidableEq, Repr

/-! ## The VIC block (part B of 10_state) -/

/-- SpriteCounters, one record per sprite (R23). -/
structure Sprite where
  mc      : BitVec 12
  mcbase  : BitVec 12
  yexp    : Bool
  dma     : Bool
  display : Bool
deriving DecidableEq, Repr

/-- The register-input fields (R26). -/
structure Regs where
  yscroll         : BitVec 3
  denBit          : Bool
  ecm             : Bool
  bmm             : Bool
  mcm             : Bool
  vm              : BitVec 4
  cb              : BitVec 3
  spriteEnable    : BitVec 8
  spriteY         : Vector (BitVec 8) 8
  spriteYExpand   : BitVec 8
  irqEnableRaster : Bool
deriving DecidableEq, Repr

/-- The VIC block's own state (R17 to R24, R26). -/
structure Vic where
  /-- the raster coordinate (R17) -/
  phase            : Phase
  cycle            : BitVec 7
  raster           : BitVec 9
  /-- clock-model flags (R18) -/
  den              : Bool
  badLine          : Bool
  /-- raster compare, publication, interrupt request (R19) -/
  rasterLatch      : BitVec 9
  rasterLow        : BitVec 8
  rasterHigh       : Bool
  irqRequestRaster : Bool
  /-- BackgroundCounters (R20) -/
  vc               : BitVec 10
  vcbase           : BitVec 10
  rc               : BitVec 3
  vmli             : BitVec 6
  idle             : Bool
  /-- line cache (R21): bits 7:0 the byte, bits 11:8 the colour -/
  lineCache        : Vector (BitVec 12) 40
  /-- refresh counter (R22) -/
  ref              : BitVec 8
  /-- SpriteCounters (R23) -/
  sprites          : Vector Sprite 8
  /-- last sprite pointer (R24) -/
  sprPtr           : BitVec 8
  /-- register-input fields (R26) -/
  regs             : Regs
deriving DecidableEq, Repr

/-- The half-cycle that an access belongs to (R17, R159). -/
structure Slot where
  raster : BitVec 9
  cycle  : BitVec 7
  phase  : Phase
deriving DecidableEq, Repr

/-! ## The block's pins (R27) and the wiring -/

/-- The 30 pins of the block (R27). -/
inductive BlockPin where
  | phi
  | ba
  | aec
  | irq
  | a (i : Fin 14)
  | d (i : Fin 12)
deriving DecidableEq, Repr

/-- The diagnostic identity of a pin (R11). -/
structure Ident where
  number : Nat
  name   : String
deriving DecidableEq, Repr

/-- The wiring (93 U8): the handle that names each block pin once the board has created it, and the identities that
PIN_NEW gives (R84). -/
structure Wiring where
  phi    : Nat
  ba     : Nat
  aec    : Nat
  irq    : Nat
  a      : Vector Nat 14
  d      : Vector Nat 12
  idents : Arena Ident
deriving DecidableEq, Repr

/-! ## Listener behaviours (R15, R108; log 3) -/

/-- What a listener can ask of the observable state: the pin it is invoked for, pin levels and modes, trace levels, and
the block's outputs: to the register file (R26) and `display[n]` (R23). -/
inductive Query where
  | thisPin (p : Nat)
  | thisLevel (v : Signal)
  | pinLevel (p : Nat) (v : Signal)
  | pinMode (p : Nat) (m : Mode)
  | traceLevel (t : Nat) (v : Signal)
  | rasterLow (v : BitVec 8)
  | rasterHigh
  | irqRequest
  | display (n : Fin 8)
deriving DecidableEq, Repr

/-- What a listener does: a possibly adaptive sequence of interface operations (R108), as a decision tree over queries. -/
inductive ListenerProg where
  | done
  | cmd (w : CmdWord) (next : ListenerProg)
  | branch (q : Query) (yes no : ListenerProg)
deriving DecidableEq, Repr

/-- The behaviour of a listener id: the block's own listener on PHI (R120), or a board chip's program. -/
inductive Behaviour where
  | vicStep
  | prog (b : ListenerProg)
deriving DecidableEq, Repr

/-! ## Memory behind the bus (R40, R52; log 5) -/

/-- A memory of 12-bit units by address, canonical: addresses strictly rising, none above 0x3FFF, no entry equal to what an
unlisted address reads as. -/
abbrev Memory := List (Nat × BitVec 12)

/-- What an unlisted address reads as (log 5). -/
def Memory.unlisted : BitVec 12 := 0

/-- The parameters of a model that are not the block's state (R28): no step changes them. -/
structure Env where
  wiring    : Wiring
  /-- an id that is not listed only records the call -/
  listeners : Arena Behaviour
  /-- none: BusRead samples the data pins (R43); some: the oracle of R52 -/
  mem       : Option Memory
  /-- FUEL (R4, R109) -/
  fuel      : Nat
deriving DecidableEq, Repr

/-! ## Outputs -/

/-- The access record (R159). -/
structure AccessRecord where
  raster : BitVec 9
  cycle  : BitVec 7
  phase  : Phase
  acc    : AccessType
  addr   : Option (BitVec 14)
  data   : Option (BitVec 12)
  blank  : Bool
  ba     : Signal
  aec    : Signal
deriving DecidableEq, Repr

/-- What the machine hands out: access records (R159), the results of the get operations (R91, R92, R100), and the
invocation of listener `l` for pin `p`, whose level is then `v` (R108, 95_test_vectors). -/
inductive Event where
  | access (r : AccessRecord)
  | pinLevel (p : Nat) (v : Signal)
  | pinMode (p : Nat) (m : Mode)
  | traceLevel (t : Nat) (v : Signal)
  | invoked (l p : Nat) (v : Signal)
deriving DecidableEq, Repr

/-! ## The state -/

/-- The machine. `pins`, `traces` and `vic` are the spec's; `env`, `pending`, `out` and `freeCtr` are the model's own. -/
structure State where
  pins    : Arena Pin
  traces  : Arena Trace
  vic     : Vic
  env     : Env
  /-- the words presented and not yet taken, oldest first (log 6) -/
  pending : List Fetch
  /-- what has been handed out, newest first (log 7) -/
  out     : List Event
  /-- how many free values have been drawn (log 11) -/
  freeCtr : Nat
deriving DecidableEq, Repr

/-- Why a step stops with a fault. -/
inductive Fault where
  /-- A contract violation (60_exceptions R221): the spec's one fault; the run has no final state. Raised by the decoder
  (codes 1 to 4, 8, 9), by the handle checks (5, 6, 7), by TRACE_ADD_PIN (10) and by a c-access (11). Safe: the spec
  stops here too. -/
  | contractViolation (v : Violation)
  /-- The stimulus never returns (60_exceptions R222): its cascade exhausted FUEL (R109). A stuck state, raised by the
  invocation of a listener. Safe: a larger FUEL can only let more stimuli finish. -/
  | hang
deriving DecidableEq, Repr

/-- Why an instruction has no meaning. -/
inductive Refusal where
  /-- The instruction of that mnemonic is not modelled; raised by its arm of `exec` alone. Safe. -/
  | notModelled (mnemonic : String)
deriving DecidableEq, Repr

/-! ## Reset -/

/-- The block's pins in order: PHI, BA, AEC, IRQ, A[0..13], D[0..11]. -/
def BlockPin.all : List BlockPin :=
  [.phi, .ba, .aec, .irq, .a 0, .a 1, .a 2, .a 3, .a 4, .a 5, .a 6, .a 7, .a 8, .a 9, .a 10, .a 11, .a 12, .a 13,
    .d 0, .d 1, .d 2, .d 3, .d 4, .d 5, .d 6, .d 7, .d 8, .d 9, .d 10, .d 11]

/-- The place of a pin in `BlockPin.all`. -/
def BlockPin.index : BlockPin → Nat
  | .phi => 0
  | .ba => 1
  | .aec => 2
  | .irq => 3
  | .a i => 4 + i.val
  | .d i => 18 + i.val

/-- The handle of the block's own terminal for a pin: 4096 and up, which no 12-bit operand reaches (log 1). -/
def BlockPin.terminal (b : BlockPin) : Nat := 4096 + b.index

/-- The mode of a block pin (R27). -/
def BlockPin.mode : BlockPin → Mode
  | .phi => .input
  | .ba => .output
  | .aec => .output
  | .irq => .output
  | .a _ => .output
  | .d _ => .input

/-- The reset level of a block pin (R29, 90_conflicts C17). -/
def BlockPin.resetLevel : BlockPin → Signal
  | .phi => .floating
  | .ba => .high
  | .aec => .high
  | .irq => .floating
  | .a _ => .floating
  | .d _ => .floating

/-- The names of R27. -/
def BlockPin.name : BlockPin → String
  | .phi => "PHI"
  | .ba => "BA"
  | .aec => "AEC"
  | .irq => "IRQ"
  | .a i => #v["A0", "A1", "A2", "A3", "A4", "A5", "A6", "A7", "A8", "A9", "A10", "A11", "A12", "A13"][i]
  | .d i => #v["D0", "D1", "D2", "D3", "D4", "D5", "D6", "D7", "D8", "D9", "D10", "D11"][i]

/-- A new pin (R29, R84, R241). -/
def Pin.fresh (ident : Ident) (m : Mode) : Pin where
  number := ident.number
  name := ident.name
  mode := m
  pull := .none
  level := .floating
  trace := none
  listeners := []

/-- A new trace (R29, R97, R241). -/
def Trace.fresh : Trace where
  members := []
  pull := .none
  level := .floating

/-- A block pin at reset (R27, R29), on no trace. -/
def BlockPin.resetPin (b : BlockPin) : Pin :=
  { Pin.fresh ⟨b.index, b.name⟩ b.mode with level := b.resetLevel }

/-- The handle that a wiring gives a block pin. -/
def Wiring.handle (w : Wiring) : BlockPin → Nat
  | .phi => w.phi
  | .ba => w.ba
  | .aec => w.aec
  | .irq => w.irq
  | .a i => w.a[i]
  | .d i => w.d[i]

/-- The handles of program P5 (95_test_vectors): the reset value of the wiring (log 2). -/
def Wiring.handlesP5 : Wiring where
  phi := 1
  ba := 2
  aec := 3
  irq := 4
  a := #v[16, 17, 18, 19, 20, 21, 22, 23, 24, 25, 26, 27, 28, 29]
  d := #v[32, 33, 34, 35, 36, 37, 38, 39, 40, 41, 42, 43]
  idents := []

/-- The same, with the names of R27 as the identities of its pins (log 17). -/
def Wiring.reset : Wiring :=
  { Wiring.handlesP5 with
    idents := BlockPin.all.map fun b => (Wiring.handlesP5.handle b, ⟨b.index, b.name⟩) }

/-- The listener id that stands for the block's STEP at reset (log 3). -/
def Env.stepListener : Nat := 0xFFF

/-- The parameters at reset (logs 2 to 5). -/
def Env.reset : Env where
  wiring := Wiring.reset
  listeners := [(Env.stepListener, .vicStep)]
  mem := none
  fuel := 64

def Sprite.reset : Sprite where
  mc := 0
  mcbase := 0
  yexp := true
  dma := false
  display := false

def Regs.reset : Regs where
  yscroll := 0
  denBit := false
  ecm := false
  bmm := false
  mcm := false
  vm := 0
  cb := 0
  spriteEnable := 0
  spriteY := Vector.replicate 8 0
  spriteYExpand := 0
  irqEnableRaster := false

/-- The reset table (R29). -/
def Vic.reset : Vic where
  phase := .two
  cycle := 65
  raster := 262
  den := false
  badLine := false
  rasterLatch := 0
  rasterLow := 0
  rasterHigh := false
  irqRequestRaster := false
  vc := 0
  vcbase := 0
  rc := 7
  vmli := 0
  idle := true
  lineCache := Vector.replicate 40 0
  ref := 255
  sprites := Vector.replicate 8 Sprite.reset
  sprPtr := 0
  regs := Regs.reset

/-- The machine right after reset (R29, R240, R241): no pin or trace that a command word can name, the block's own
terminals, the VIC block's reset table. -/
def State.reset : State where
  pins := BlockPin.all.map fun b => (b.terminal, b.resetPin)
  traces := []
  vic := Vic.reset
  env := Env.reset
  pending := []
  out := []
  freeCtr := 0

end Sys2Proof.Machine
end

