-- ==== Sys2Proof/Machine/Ops.lean ====
section
/-! DEFINITION. The operations every meaning is written over: arenas and memory, the outcome of a computation, the substrate's
net resolution and push (R80 to R83), the set of a pin (R85), the block's own pins and its address pins (R43, R51, R182),
and the two sides of the raster interrupt (R223, R226, R234). Everything that can invoke a listener takes the invoker as
an argument; Machine/Invoke.lean closes the recursion over FUEL. -/
namespace Sys2Proof.Machine

/-! ## Arenas -/

/-- The record of a handle. -/
def Arena.find {α : Type} : Arena α → Nat → Option α
  | [], _ => none
  | (j, x) :: m, k => if k = j then some x else Arena.find m k

/-- Whether a handle names a record. -/
def Arena.has {α : Type} (m : Arena α) (k : Nat) : Bool := (m.find k).isSome

/-- Write a record, keeping the handles in rising order. -/
def Arena.put {α : Type} : Arena α → Nat → α → Arena α
  | [], k, v => [(k, v)]
  | (j, x) :: m, k, v =>
    if k < j then (k, v) :: (j, x) :: m
    else if k = j then (k, v) :: m
    else (j, x) :: Arena.put m k v

/-- The canonical form of an arena: handles strictly rising. -/
abbrev Arena.Sorted {α : Type} (m : Arena α) : Prop := m.Pairwise (fun x y => x.1 < y.1)

/-! ## Memory behind the bus (R52, log 5) -/

/-- `Mem(addr)`. -/
def Memory.read (m : Memory) (addr : BitVec 14) : BitVec 12 := (Arena.find m addr.toNat).getD Memory.unlisted

/-- Put one unit into a memory image; the value an unlisted address reads as removes the entry. The block itself never
writes (R43): this builds the `Mem` that a board supplies. -/
def Memory.write (m : Memory) (addr : BitVec 14) (v : BitVec 12) : Memory :=
  if v = Memory.unlisted then m.filter (fun e => e.1 != addr.toNat) else Arena.put m addr.toNat v

/-- The canonical form of a memory: addresses strictly rising and below 2^14, no entry that an unlisted address reads as. -/
abbrev Memory.wf (m : Memory) : Prop :=
  m.Pairwise (fun x y => x.1 < y.1) ∧ ∀ e ∈ m, e.1 < 2 ^ 14 ∧ e.2 ≠ Memory.unlisted

/-! ## Outcomes -/

/-- What a computation of the machine answers. -/
abbrev Result := Host.Outcome State Fault Refusal

/-- Raise a contract violation (R221). -/
def violate (v : Violation) : Result := .fault (.contractViolation v)

/-- Go on in the state a computation answers; a stop is final. -/
def andThen (r : Result) (f : State → Result) : Result :=
  match r with
  | .next s => f s
  | .fault x => .fault x
  | .refused x => .refused x

/-! ## Updates of the state -/

def State.setPin (s : State) (p : Nat) (pin : Pin) : State := { s with pins := Arena.put s.pins p pin }

def State.setTrace (s : State) (t : Nat) (tr : Trace) : State := { s with traces := Arena.put s.traces t tr }

def State.setVic (s : State) (v : Vic) : State := { s with vic := v }

def State.setRegs (s : State) (r : Regs) : State := { s with vic := { s.vic with regs := r } }

def State.emit (s : State) (e : Event) : State := { s with out := e :: s.out }

/-- Draw a free value: the counter moves on (log 11). -/
def State.drawFree (s : State) : State := { s with freeCtr := s.freeCtr + 1 }

/-! ## Resolution and push (R80 to R83) -/

/-- The invocation of a listener id for a pin (R108). -/
abbrev Invoker := Nat → Nat → State → Result

/-- A member that actively drives `v` (R80): Output mode at level `v`. Bidirectional pins are not scanned. -/
def drives (s : State) (v : Signal) (p : Nat) : Bool :=
  match s.pins.find p with
  | some pin => pin.mode == .output && pin.level == v
  | none => false

/-- `Resolve(t, pending)` (R81). -/
def resolve (s : State) (tr : Trace) (pending : Signal) : Signal :=
  if tr.members.any (drives s .high) then .high
  else if tr.members.any (drives s .low) then .low
  else if pending ≠ .floating then pending
  else tr.pull.level

/-- `Adopt(p, v)` (R83): the pin's own pull stands in for `Z`. -/
def adopt (pin : Pin) (v : Signal) : Signal :=
  match v with
  | .floating => pin.pull.level
  | .low => .low
  | .high => .high

/-- Invoke the listeners of a pin in registration order (R83). -/
def invokeAll (inv : Invoker) (p : Nat) : List Nat → State → Result
  | [], s => .next s
  | l :: ls, s => andThen (inv l p s) (invokeAll inv p ls)

/-- `UpdateLevel(p)` (R83). The level is written before the first listener runs, and the listeners invoked are those
registered at the time of the push. -/
def updateLevel (inv : Invoker) (p : Nat) (s : State) : Result :=
  match s.pins.find p with
  | none => violate (.noSuchPin p)
  | some pin =>
    if pin.mode.inCap then
      match pin.trace with
      | none => .next s
      | some t =>
        match s.traces.find t with
        | none => violate (.noSuchTrace t)
        | some tr =>
          if adopt pin tr.level = pin.level then .next s
          else invokeAll inv p pin.listeners (s.setPin p { pin with level := adopt pin tr.level })
    else .next s

/-- Update a list of pins in order, each with the trace level as it then is (R82). -/
def updateAll (inv : Invoker) : List Nat → State → Result
  | [], s => .next s
  | p :: ps, s => andThen (updateLevel inv p s) (updateAll inv ps)

/-- `ResolveAndPush(t, pending)` (R82). -/
def resolveAndPush (inv : Invoker) (t : Nat) (pending : Signal) (s : State) : Result :=
  match s.traces.find t with
  | none => violate (.noSuchTrace t)
  | some tr => updateAll inv tr.members (s.setTrace t { tr with level := resolve s tr pending })

/-- The pending value that a pin's level gives (R85, R86, R98): the level for a Bidirectional pin, else `Z`. -/
def pendingOf (m : Mode) (v : Signal) : Signal := if m = .bidirectional then v else .floating

/-- `PIN_SET_LEVEL p, v` (R85). -/
def pinSetLevel (inv : Invoker) (p : Nat) (v : Signal) (s : State) : Result :=
  match s.pins.find p with
  | none => violate (.noSuchPin p)
  | some pin =>
    if pin.mode.outCap then
      match pin.trace with
      | none => .next (s.setPin p { pin with level := v })
      | some t => resolveAndPush inv t (pendingOf pin.mode v) (s.setPin p { pin with level := v })
    else .next s

/-! ## The block's pins (R27) -/

/-- The handle at which a block pin stands: the one the wiring gives once the board has created that pin, before that the
block's own terminal (log 1, log 2). -/
def State.blockHandle (s : State) (b : BlockPin) : Nat :=
  if s.pins.has (s.env.wiring.handle b) then s.env.wiring.handle b else b.terminal

/-- The level of a block pin; a pin that is not there floats. -/
def State.blockLevel (s : State) (b : BlockPin) : Signal :=
  match s.pins.find (s.blockHandle b) with
  | some pin => pin.level
  | none => .floating

/-- Set one of the block's pins through the substrate (R182). -/
def setBlockPin (inv : Invoker) (b : BlockPin) (v : Signal) (s : State) : Result :=
  pinSetLevel inv (s.blockHandle b) v s

/-- The address pins in ascending order (R43). -/
def addressPins : List (Fin 14) := [0, 1, 2, 3, 4, 5, 6, 7, 8, 9, 10, 11, 12, 13]

/-- The data pins in ascending order (R43). -/
def dataPins : List (Fin 12) := [0, 1, 2, 3, 4, 5, 6, 7, 8, 9, 10, 11]

/-- The level of a bit (R41). -/
def bitSignal (b : Bool) : Signal := if b then .high else .low

/-- Set a list of address pins, one substrate operation each (R43). -/
def setAddressPins (inv : Invoker) (v : Fin 14 → Signal) : List (Fin 14) → State → Result
  | [], s => .next s
  | i :: is, s => andThen (setBlockPin inv (.a i) (v i) s) (setAddressPins inv v is)

/-- Drive an address onto `A[0..13]` (R43, R158). -/
def driveAddress (inv : Invoker) (addr : BitVec 14) (s : State) : Result :=
  setAddressPins inv (fun i => bitSignal (addr.getLsbD i.val)) addressPins s

/-- Release the bus (R51, R157). -/
def releaseAddress (inv : Invoker) (s : State) : Result :=
  setAddressPins inv (fun _ => .floating) addressPins s

/-- The bit that a level reads as (R41, R50). -/
def signalBit : Signal → Bool
  | .low => false
  | .high => true
  | .floating => Config.hw.floatReadsAs

/-- What the twelve data pins read as (R43, R50). -/
def State.sampleData (s : State) : BitVec 12 := BitVec.ofFnLE (fun i => signalBit (s.blockLevel (.d i)))

/-- The data that a read of `addr` gives once the address is driven: the data pins (R43), or the oracle (R52). -/
def State.busData (s : State) (addr : BitVec 14) : BitVec 12 :=
  match s.env.mem with
  | none => s.sampleData
  | some m => m.read addr

/-- `BusRead(addr)` (R43), and then `k` with the state and the data. -/
def busRead (inv : Invoker) (addr : BitVec 14) (s : State) (k : State → BitVec 12 → Result) : Result :=
  andThen (driveAddress inv addr s) (fun s' => k s' (s'.busData addr))

/-! ## The raster interrupt: raised (R124, R223, R226), acknowledged (R227, R234) -/

/-- Raise the raster interrupt: the request bit, then the IRQ pin to `0`; nothing else changes (R226). -/
def raiseRasterIrq (inv : Invoker) (s : State) : Result :=
  setBlockPin inv .irq .low (s.setVic { s.vic with irqRequestRaster := true })

/-- End the request: the bit is cleared, the IRQ pin released to `Z` (R234). -/
def ackRasterIrq (inv : Invoker) (s : State) : Result :=
  setBlockPin inv .irq .floating (s.setVic { s.vic with irqRequestRaster := false })

end Sys2Proof.Machine
end

