-- ==== Sys2Proof/Machine/Flags.lean ====
section
/-! DEFINITION. The predicates and levels computed from the clock state: the raster match (R124), the bad-line predicate
(R126), BA (R180) and AEC (R181). -/
namespace Sys2Proof.Machine

/-- The sprite's `dma` flag (R23). -/
def Vic.dma (v : Vic) (n : Fin 8) : Bool := v.sprites[n].dma

/-- The raster compare (R124): the new raster equals the latch and the enable bit is set. -/
def Vic.rasterMatch (v : Vic) : Bool := v.raster == v.rasterLatch && v.regs.irqEnableRaster

/-- The bad-line predicate (R126). -/
def badLineOf (raster : BitVec 9) (yscroll : BitVec 3) (den : Bool) : Bool :=
  decide (Config.hw.badLineFirst ≤ raster.toNat) && decide (raster.toNat ≤ Config.hw.badLineLast)
    && raster.extractLsb' 0 3 == yscroll && den

/-- The number of a phase (R17). -/
def Phase.number : Phase → Nat
  | .one => 1
  | .two => 2

/-- `h = 2*(cycle-1) + (phase-1)` (R17, R180), as an integer since R180 compares `h - 130`. -/
def slotIndex (ph : Phase) (c : BitVec 7) : Int := 2 * ((c.toNat : Int) - 1) + ((Phase.number ph : Int) - 1)

/-- `lo(n)` (R180): the slot BA_LEAD cycles before the sprite's pointer slot. -/
def spriteWindowLo (n : Fin 8) : Int := 2 * ((Config.hw.ptrCycle[n] : Int) - 1 - Config.hw.baLead)

/-- `hi(n)` (R180): the sprite's last data slot, which for sprite 7 is in phase 2 of its pointer cycle. -/
def spriteWindowHi (n : Fin 8) : Int :=
  if n = 7 then 2 * (Config.hw.ptrCycle[n] : Int) - 1 else 2 * (Config.hw.ptrCycle[n] : Int)

/-- Whether a half-cycle lies in a sprite's window or its lead, this line's or the next one's (R180). -/
def inSpriteWindow (n : Fin 8) (h : Int) : Bool :=
  (decide (spriteWindowLo n ≤ h) && decide (h ≤ spriteWindowHi n))
    || (decide (spriteWindowLo n ≤ h - 2 * Config.hw.cyclesPerLine)
        && decide (h - 2 * Config.hw.cyclesPerLine ≤ spriteWindowHi n))

/-- `CWindow` (R180). -/
def inCWindow (c : BitVec 7) (badLine : Bool) : Bool :=
  badLine && decide (Config.hw.cFirst - Config.hw.baLead ≤ c.toNat) && decide (c.toNat ≤ Config.hw.cLast)

/-- The sprites in ascending order. -/
def spriteNumbers : List (Fin 8) := [0, 1, 2, 3, 4, 5, 6, 7]

/-- BA (R180): low in the c-window and in the window of every sprite with `dma` set. -/
def baLevel (ph : Phase) (c : BitVec 7) (badLine : Bool) (dma : Fin 8 → Bool) : Signal :=
  if inCWindow c badLine || spriteNumbers.any (fun n => dma n && inSpriteWindow n (slotIndex ph c)) then .low else .high

/-- AEC (R181): high exactly in the phase-2 slots that the block does not use. -/
def aecLevel (ph : Phase) (acc : AccessType) : Signal :=
  match ph with
  | .one => .low
  | .two =>
    match acc with
    | .videoMatrixColor => .low
    | .spriteData _ => .low
    | .idle => .high
    | .refresh => .high
    | .bitmapChar => .high
    | .spritePointer _ => .high
    | .cpuOwned => .high

end Sys2Proof.Machine
end

