-- ==== Sys2Proof/Machine/Operands.lean ====
section
/-! DEFINITION. How each multi-bit value is assembled (30_encoding R70): the addresses of the accesses, the column of a
g-access, and the write of a register-input field (R26, R232). -/
namespace Sys2Proof.Machine

/-- `IdleAddr` (R143). -/
def idleAddr (r : Regs) : BitVec 14 := if r.ecm then Config.hw.idleAddrEcm else Config.hw.idleAddr

/-- The refresh address `0x3F00 | ref` (R144). -/
def refreshAddr (ref : BitVec 8) : BitVec 14 := Config.hw.refreshBase ||| ref.setWidth 14

/-- `regs.vm << 10`, the video-matrix base (R26). -/
def videoMatrixBase (r : Regs) : BitVec 14 := r.vm.setWidth 14 <<< 10

/-- The c-access address `(regs.vm << 10) | vc` (R145). -/
def cAddr (r : Regs) (vc : BitVec 10) : BitVec 14 := videoMatrixBase r ||| vc.setWidth 14

/-- The p-access address `(regs.vm << 10) | 0x3F8 | n` (R155). -/
def pAddr (r : Regs) (n : Fin 8) : BitVec 14 :=
  videoMatrixBase r ||| Config.hw.spritePtrOffset ||| BitVec.ofNat 14 n.val

/-- The s-access address `trunc_14((sprPtr << 6) | mc[n])` (R156): OR, not addition. -/
def sAddr (sprPtr : BitVec 8) (mc : BitVec 12) : BitVec 14 := (sprPtr.setWidth 14 <<< 6) ||| mc.setWidth 14

/-- `TextAddr(byte)` (R161). -/
def textAddr (cb : BitVec 3) (rc : BitVec 3) (byte : BitVec 8) : BitVec 14 :=
  (cb.setWidth 14 <<< 11) ||| (byte.setWidth 14 <<< 3) ||| rc.setWidth 14

/-- `BmpAddr(col)` (R161). -/
def bmpAddr (cb : BitVec 3) (rc : BitVec 3) (vcbase col : BitVec 10) : BitVec 14 :=
  ((cb.extractLsb' 2 1).setWidth 14 <<< 13) ||| ((vcbase + col).setWidth 14 <<< 3) ||| rc.setWidth 14

/-- The mask of the extended-colour modes: address bits 9 and 10 forced to 0 (R70). -/
def ecmMask : BitVec 14 := 0x39FF

/-- The selector `{regs.ecm, regs.bmm, regs.mcm}` (R69). -/
def Regs.selector (r : Regs) : GModeWord := BitVec.ofBool r.ecm ++ (BitVec.ofBool r.bmm ++ BitVec.ofBool r.mcm)

/-- `GAddr(sel, byte, col)` (R146 to R154). -/
def gAddr (sel : GModeWord) (v : Vic) (byte : BitVec 8) (col : BitVec 10) : BitVec 14 :=
  match sel with
  | 0#3 => textAddr v.regs.cb v.rc byte
  | 1#3 => textAddr v.regs.cb v.rc byte
  | 2#3 => bmpAddr v.regs.cb v.rc v.vcbase col
  | 3#3 => bmpAddr v.regs.cb v.rc v.vcbase col
  | 4#3 => textAddr v.regs.cb v.rc byte &&& ecmMask
  | 5#3 => textAddr v.regs.cb v.rc byte &&& ecmMask
  | 6#3 => bmpAddr v.regs.cb v.rc v.vcbase col &&& ecmMask
  | 7#3 => bmpAddr v.regs.cb v.rc v.vcbase col &&& ecmMask

/-- The three invalid modes render as blank (R69, R152 to R154). -/
def blankMode (sel : GModeWord) : Bool := sel == 5 || sel == 6 || sel == 7

/-- The column of a g-access, `cycle - 16` (R146): 0 to 39 in the g-access cycles, and no other cycle has one. -/
def columnOf (c : BitVec 7) : Option (Fin 40) :=
  if h : Config.hw.gFirst ≤ c.toNat ∧ c.toNat ≤ Config.hw.gLast then
    some ⟨c.toNat - Config.hw.gFirst, by simp only [Config.hw] at h ⊢; omega⟩
  else none

/-- The cache byte and the column that the g-access of a cycle uses (R146); free values where R146 names no column
(log 11). -/
def gOperands (v : Vic) (c : BitVec 7) (ctr : Nat) : BitVec 8 × BitVec 10 :=
  match columnOf c with
  | some k => (v.lineCache[k].setWidth 8, BitVec.ofNat 10 k.val)
  | none => (Config.freeByte ctr, Config.freeCol ctr)

/-- Write a register-input field, the value cut to the field's width (R26, R65, R232); none where the id names none. -/
def Regs.write (r : Regs) (f : FieldId) (value : BitVec 12) : Option Regs :=
  match f.toNat with
  | 0 => some { r with yscroll := value.setWidth 3 }
  | 1 => some { r with denBit := value.getLsbD 0 }
  | 2 => some { r with ecm := value.getLsbD 0 }
  | 3 => some { r with bmm := value.getLsbD 0 }
  | 4 => some { r with mcm := value.getLsbD 0 }
  | 5 => some { r with vm := value.setWidth 4 }
  | 6 => some { r with cb := value.setWidth 3 }
  | 7 => some { r with spriteEnable := value.setWidth 8 }
  | 8 => some { r with irqEnableRaster := value.getLsbD 0 }
  | n =>
    if h : 0x10 ≤ n ∧ n ≤ 0x17 then
      some { r with spriteY := r.spriteY.set (n - 0x10) (value.setWidth 8) (by omega) }
    else none

end Sys2Proof.Machine
end

