-- ==== Sys2Proof/Machine/Clock.lean ====
section
/-! DEFINITION. The clock model's pure parts (41_clock_model): coordinate advance, raster publication, display-enable
sampling, bad-line recomputation. -/
namespace Sys2Proof.Machine

/-- Whether the next coordinate advance changes `raster` (R122). -/
def Vic.atLineEnd (v : Vic) : Bool := v.phase == .two && v.cycle.toNat == Config.hw.cyclesPerLine

/-- The raster that follows (R122). -/
def nextRaster (r : BitVec 9) : BitVec 9 := if r.toNat = Config.hw.linesPerFrame - 1 then 0 else r + 1

/-- Coordinate advance (R122). -/
def Vic.advance (v : Vic) : Vic :=
  match v.phase with
  | .one => { v with phase := .two }
  | .two =>
    if v.cycle.toNat = Config.hw.cyclesPerLine then
      { v with phase := .one, cycle := 1, raster := nextRaster v.raster }
    else { v with phase := .one, cycle := v.cycle + 1 }

/-- Raster publication (R123). -/
def Vic.publish (v : Vic) : Vic :=
  { v with rasterLow := v.raster.setWidth 8, rasterHigh := v.raster.getLsbD 8 }

/-- Display-enable sampling (R125), on a step that changed `raster`. -/
def Vic.sampleDen (v : Vic) : Vic :=
  if v.raster = Config.hw.denSampleLine then { v with den := v.regs.denBit } else v

/-- Recompute `badLine` (R126). -/
def Vic.recomputeBadLine (v : Vic) : Vic := { v with badLine := badLineOf v.raster v.regs.yscroll v.den }

end Sys2Proof.Machine
end

