-- ==== Sys2Proof/Machine/Background.lean ====
section
/-! DEFINITION. The background counters' transitions (44_background_counters). -/
namespace Sys2Proof.Machine

/-- Frame start (R190). -/
def Vic.frameStart (v : Vic) : Vic := { v with vcbase := 0, ref := Config.hw.refreshReset }

/-- Line reload (R191). -/
def Vic.lineReload (v : Vic) : Vic :=
  { v with vc := v.vcbase, vmli := 0, rc := if v.badLine then 0 else v.rc }

/-- Row advance (R192): the first branch and the increment are separate, as the spec reads the sentence (D24). -/
def Vic.rowAdvance (v : Vic) : Vic :=
  { v with
    idle := if v.rc = 7 then true else v.idle
    vcbase := if v.rc = 7 then v.vc else v.vcbase
    rc := if v.rc ≠ 7 ∨ v.badLine then v.rc + 1 else v.rc }

/-- Leaving idle state (R193). -/
def Vic.leaveIdle (v : Vic) : Vic := if v.badLine then { v with idle := false } else v

end Sys2Proof.Machine
end

