-- ==== Sys2Proof/Machine/SpriteDma.lean ====
section
/-! DEFINITION. The sprite DMA state machines (45_sprite_dma). The sprites share no state, so each transition is one function
of a sprite's record applied to all eight. -/
namespace Sys2Proof.Machine

/-- Apply a transition to every sprite. -/
def Vic.mapSprites (v : Vic) (f : Fin 8 → Sprite → Sprite) : Vic :=
  { v with sprites := Vector.ofFn (fun n => f n v.sprites[n]) }

/-- The comparison of a sprite's Y coordinate with the low 8 bits of the raster (R200, R203). -/
def Vic.yMatches (v : Vic) (n : Fin 8) : Bool := v.regs.spriteY[n] == v.raster.setWidth 8

/-- DMA start (R200). -/
def Vic.dmaStart (v : Vic) : Vic :=
  v.mapSprites fun n sp =>
    if v.regs.spriteEnable.getLsbD n.val && v.yMatches n && !sp.dma then
      { sp with dma := true, mcbase := 0, yexp := if v.regs.spriteYExpand.getLsbD n.val then false else sp.yexp }
    else sp

/-- First increment of `mcbase` (R201). -/
def Vic.mcbaseFirst (v : Vic) : Vic :=
  v.mapSprites fun _ sp => if sp.yexp then { sp with mcbase := sp.mcbase + 2 } else sp

/-- The second increment of one sprite's `mcbase` (R202). -/
def Sprite.secondIncrement (sp : Sprite) : Sprite := if sp.yexp then { sp with mcbase := sp.mcbase + 1 } else sp

/-- End of DMA when `mcbase` is 63 (R202). -/
def Sprite.endDma (sp : Sprite) : Sprite :=
  if sp.mcbase = Config.hw.mcbaseEnd then { sp with dma := false, display := false } else sp

/-- Second increment of `mcbase` and end of DMA (R202). -/
def Vic.mcbaseSecond (v : Vic) : Vic := v.mapSprites fun _ sp => sp.secondIncrement.endDma

/-- Reload of `mc` and display start (R203). -/
def Vic.mcReload (v : Vic) : Vic :=
  v.mapSprites fun n sp =>
    { sp with mc := sp.mcbase, display := if sp.dma && v.yMatches n then true else sp.display }

/-- VIC_WRITE_YEXPAND (R204): a bit written as 0 forces the flip-flop to set; a bit written as 1 leaves it alone. -/
def Vic.writeYExpand (v : Vic) (value : BitVec 8) : Vic :=
  { v with regs := { v.regs with spriteYExpand := value } }.mapSprites fun n sp =>
    if value.getLsbD n.val then sp else { sp with yexp := true }

end Sys2Proof.Machine
end

