-- ==== Sys2Proof/Machine/Access.lean ====
section
/-! DEFINITION. The memory scheduler (42_scheduler_access, 43_bus_ownership): slot decode, the accesses with their addresses,
reads and side effects, the access record, and one whole slot (sub-steps 6 to 10 of STEP, R121). -/
namespace Sys2Proof.Machine

/-! ## Slot decode (R140 to R142) -/

/-- The sprite whose pointer cycle this is (R142). -/
def pointerSprite (cycle : Nat) : Option (Fin 8) := spriteNumbers.find? (fun n => Config.hw.ptrCycle[n] == cycle)

/-- The sprite whose data slot this is (R142). -/
def dataSprite (ph : Phase) (cycle : Nat) : Option (Fin 8) :=
  (Config.hw.dataSlots.find? (fun d => d.cycle == cycle && d.phase == ph)).map DataSlot.sprite

/-- SlotDecode, phase 1 (R140). -/
def slotDecode1 (cycle : Nat) (dma : Fin 8 → Bool) : AccessType :=
  match pointerSprite cycle with
  | some n => .spritePointer n
  | none =>
    match dataSprite .one cycle with
    | some n => if dma n then .spriteData n else .idle
    | none =>
      if Config.hw.refreshFirst ≤ cycle ∧ cycle ≤ Config.hw.refreshLast then .refresh
      else if Config.hw.gFirst ≤ cycle ∧ cycle ≤ Config.hw.gLast then .bitmapChar
      else .idle

/-- SlotDecode, phase 2 (R141). -/
def slotDecode2 (cycle : Nat) (badLine : Bool) (dma : Fin 8 → Bool) : AccessType :=
  match dataSprite .two cycle with
  | some n => if dma n then .spriteData n else .cpuOwned
  | none =>
    if Config.hw.cFirst ≤ cycle ∧ cycle ≤ Config.hw.cLast then
      if badLine then .videoMatrixColor else .cpuOwned
    else .cpuOwned

/-- SlotDecode (R140, R141); a cycle outside 1..65 is code 8. -/
def slotDecode (ph : Phase) (c : BitVec 7) (badLine : Bool) (dma : Fin 8 → Bool) : Except Violation AccessType :=
  if c.toNat = 0 ∨ Config.hw.cyclesPerLine < c.toNat then .error (.badSlot (slotWord ph c))
  else match ph with
    | .one => .ok (slotDecode1 c.toNat dma)
    | .two => .ok (slotDecode2 c.toNat badLine dma)

/-! ## The accesses: address, read, side effect, record (sub-steps 8 to 10) -/

/-- Emit the access record of a slot (R159). -/
def State.record (s : State) (slot : Slot) (ba aec : Signal) (acc : AccessType) (addr : Option (BitVec 14))
    (data : Option (BitVec 12)) (blank : Bool) : State :=
  s.emit (.access ⟨slot.raster, slot.cycle, slot.phase, acc, addr, data, blank, ba, aec⟩)

/-- Idle (R143): the read is made, its data discarded. -/
def idleAccess (inv : Invoker) (slot : Slot) (ba aec : Signal) (s : State) : Result :=
  busRead inv (idleAddr s.vic.regs) s fun s' data =>
    .next (s'.record slot ba aec .idle (some (idleAddr s.vic.regs)) (some data) false)

/-- Refresh (R144): the address uses the counter before its decrement; 0 wraps to 255. -/
def refreshAccess (inv : Invoker) (slot : Slot) (ba aec : Signal) (s : State) : Result :=
  busRead inv (refreshAddr s.vic.ref) s fun s' data =>
    .next ((s'.setVic { s'.vic with ref := s'.vic.ref - 1 }).record slot ba aec .refresh (some (refreshAddr s.vic.ref))
      (some data) false)

/-- The side effect of a c-access at index `i` (R145): the cache entry, then `vc` and `vmli` while not idle. -/
def Vic.cacheStore (v : Vic) (i : Fin 40) (data : BitVec 12) : Vic :=
  { v with
    lineCache := v.lineCache.set i data
    vc := if v.idle then v.vc else v.vc + 1
    vmli := if v.idle then v.vmli else v.vmli + 1 }

/-- VideoMatrixColor (R145); `vmli >= 40` is code 11. -/
def videoMatrixAccess (inv : Invoker) (slot : Slot) (ba aec : Signal) (s : State) : Result :=
  busRead inv (cAddr s.vic.regs s.vic.vc) s fun s' data =>
    if h : s'.vic.vmli.toNat < 40 then
      .next ((s'.setVic (s'.vic.cacheStore ⟨s'.vic.vmli.toNat, h⟩ data)).record slot ba aec .videoMatrixColor
        (some (cAddr s.vic.regs s.vic.vc)) (some data) false)
    else violate (.lineCacheIndex s'.vic.vmli)

/-- Draw the free values of a g-access only where R146 names no column (log 11). -/
def State.drawColumn (s : State) (c : BitVec 7) : State :=
  match columnOf c with
  | some _ => s
  | none => s.drawFree

/-- The g-access in display state under a selector (R146 to R154). -/
def gModeAccess (inv : Invoker) (sel : GModeWord) (slot : Slot) (ba aec : Signal) (s : State) : Result :=
  let ops := gOperands s.vic slot.cycle s.freeCtr
  let addr := gAddr sel s.vic ops.1 ops.2
  busRead inv addr (s.drawColumn slot.cycle) fun s' data =>
    .next (s'.record slot ba aec .bitmapChar (some addr) (some data) (blankMode sel))

/-- BitmapChar (R146): in idle state the idle address, the selector not consulted (C18). -/
def bitmapAccess (inv : Invoker) (slot : Slot) (ba aec : Signal) (s : State) : Result :=
  if s.vic.idle then
    busRead inv (idleAddr s.vic.regs) s fun s' data =>
      .next (s'.record slot ba aec .bitmapChar (some (idleAddr s.vic.regs)) (some data) false)
  else gModeAccess inv s.vic.regs.selector slot ba aec s

/-- SpritePointer(n) (R155): the colour nibble is ignored. -/
def spritePointerAccess (inv : Invoker) (n : Fin 8) (slot : Slot) (ba aec : Signal) (s : State) : Result :=
  busRead inv (pAddr s.vic.regs n) s fun s' data =>
    .next ((s'.setVic { s'.vic with sprPtr := data.setWidth 8 }).record slot ba aec (.spritePointer n)
      (some (pAddr s.vic.regs n)) (some data) false)

/-- The side effect of an s-access (R156). -/
def Vic.countSprite (v : Vic) (n : Fin 8) : Vic :=
  { v with sprites := v.sprites.set n { v.sprites[n] with mc := v.sprites[n].mc + 1 } }

/-- SpriteData(n) (R156). -/
def spriteDataAccess (inv : Invoker) (n : Fin 8) (slot : Slot) (ba aec : Signal) (s : State) : Result :=
  busRead inv (sAddr s.vic.sprPtr s.vic.sprites[n].mc) s fun s' data =>
    .next ((s'.setVic (s'.vic.countSprite n)).record slot ba aec (.spriteData n)
      (some (sAddr s.vic.sprPtr s.vic.sprites[n].mc)) (some data) false)

/-- CpuOwned (R157): the address pins are released and nothing is read. -/
def cpuOwnedAccess (inv : Invoker) (slot : Slot) (ba aec : Signal) (s : State) : Result :=
  andThen (releaseAddress inv s) fun s' => .next (s'.record slot ba aec .cpuOwned none none false)

/-- Sub-steps 8 to 10 of STEP for an access type (R121). -/
def runAccess (inv : Invoker) (slot : Slot) (ba aec : Signal) (acc : AccessType) (s : State) : Result :=
  match acc with
  | .idle => idleAccess inv slot ba aec s
  | .refresh => refreshAccess inv slot ba aec s
  | .videoMatrixColor => videoMatrixAccess inv slot ba aec s
  | .bitmapChar => bitmapAccess inv slot ba aec s
  | .spritePointer n => spritePointerAccess inv n slot ba aec s
  | .spriteData n => spriteDataAccess inv n slot ba aec s
  | .cpuOwned => cpuOwnedAccess inv slot ba aec s

/-! ## One slot (sub-steps 6 to 10) -/

/-- BA of a slot in a state (R180). -/
def State.slotBa (s : State) (ph : Phase) (c : BitVec 7) : Signal := baLevel ph c s.vic.badLine s.vic.dma

/-- Sub-steps 6 to 10 of STEP for a slot: SlotDecode, BA, AEC, then the access. -/
def runSlot (inv : Invoker) (ph : Phase) (c : BitVec 7) (s : State) : Result :=
  match slotDecode ph c s.vic.badLine s.vic.dma with
  | .error v => violate v
  | .ok acc =>
    andThen (setBlockPin inv .ba (s.slotBa ph c) s) fun s1 =>
      andThen (setBlockPin inv .aec (aecLevel ph acc) s1)
        (runAccess inv ⟨s.vic.raster, c, ph⟩ (s.slotBa ph c) (aecLevel ph acc) acc)

/-- The slot at the coordinate that a state stands at. -/
def State.slot (s : State) : Slot := ⟨s.vic.raster, s.vic.cycle, s.vic.phase⟩

/-- Sub-steps 8 to 10 at the state's own coordinate, for an access-type word run by itself (log 9). -/
def runAccessHere (inv : Invoker) (acc : AccessType) (s : State) : Result :=
  runAccess inv s.slot (s.slotBa s.vic.phase s.vic.cycle) (aecLevel s.vic.phase acc) acc s

/-- The g-access under a selector at the state's own coordinate, for a mode word run by itself (log 10). -/
def runGModeHere (inv : Invoker) (sel : GModeWord) (s : State) : Result :=
  gModeAccess inv sel s.slot (s.slotBa s.vic.phase s.vic.cycle) (aecLevel s.vic.phase .bitmapChar) s

end Sys2Proof.Machine
end

