-- ==== Sys2Proof/Machine/HalfCycle.lean ====
section
/-! DEFINITION. The half-cycle step, STEP (41_clock_model R121). -/
namespace Sys2Proof.Machine

/-- Sub-step 4: the transition of the slot, if it has one (R121). -/
def Vic.lineTransition (v : Vic) : Vic :=
  match v.phase with
  | .two => v
  | .one =>
    if v.raster = 0 ∧ v.cycle = 1 then v.frameStart
    else if v.cycle = 14 then v.lineReload
    else if v.cycle = 15 then v.mcbaseFirst
    else if v.cycle = 16 then v.mcbaseSecond
    else if v.cycle = 55 ∨ v.cycle = 56 then v.dmaStart
    else if v.cycle = 58 then v.rowAdvance.mcReload
    else v

/-- Sub-steps 3 to 5: the bad-line predicate, the transition, the exit from idle state. -/
def Vic.settle (v : Vic) : Vic := v.recomputeBadLine.lineTransition.leaveIdle

/-- Sub-step 2, on a step that changed `raster`: publish, compare, sample `den` (R123 to R125). -/
def rasterChange (inv : Invoker) (s : State) : Result :=
  andThen
    (if s.vic.publish.rasterMatch then raiseRasterIrq inv (s.setVic s.vic.publish) else .next (s.setVic s.vic.publish))
    (fun s' => .next (s'.setVic s'.vic.sampleDen))

/-- Sub-steps 3 to 10. -/
def finishStep (inv : Invoker) (s : State) : Result :=
  runSlot inv s.vic.settle.phase s.vic.settle.cycle (s.setVic s.vic.settle)

/-- STEP (R121). -/
def vicStep (inv : Invoker) (s : State) : Result :=
  andThen
    (if s.vic.atLineEnd then rasterChange inv (s.setVic s.vic.advance) else .next (s.setVic s.vic.advance))
    (finishStep inv)

end Sys2Proof.Machine
end

