-- ==== Sys2Proof/Machine/Interface.lean ====
section
/-! DEFINITION. The operations of the interface (40_substrate_pin_trace sections 2 and 3, 60_exceptions section 4), each with the
invoker it runs under, so that a listener can issue the same operation from inside a cascade (R108). The check of a handle
precedes every write (R221, R225). -/
namespace Sys2Proof.Machine

/-! ## Pin operations -/

/-- PIN_NEW (R84): the number and name are the wiring's, the handle's own where the wiring has none (log 17). -/
def opPinNew (p : Nat) (m : Mode) (s : State) : Result :=
  if s.pins.has p then violate (.noSuchPin p)
  else .next (s.setPin p (Pin.fresh ((Arena.find s.env.wiring.idents p).getD ⟨p, ""⟩) m))

/-- PIN_SET_MODE (R86). -/
def opPinSetMode (inv : Invoker) (p : Nat) (m : Mode) (s : State) : Result :=
  match s.pins.find p with
  | none => violate (.noSuchPin p)
  | some pin =>
    if m = pin.mode then .next s
    else
      match pin.trace with
      | none => .next (s.setPin p { pin with mode := m })
      | some t =>
        if m.outCap then resolveAndPush inv t (pendingOf m pin.level) (s.setPin p { pin with mode := m })
        else if pin.mode.outCap ∧ pin.level ≠ .floating then
          resolveAndPush inv t .floating (s.setPin p { pin with mode := m })
        else updateLevel inv p (s.setPin p { pin with mode := m })

/-- The three pin-pull operations (R87 to R89): store the setting, then synchronise the pin if it has a trace. -/
def opPinPull (inv : Invoker) (p : Nat) (pull : Pull) (s : State) : Result :=
  match s.pins.find p with
  | none => violate (.noSuchPin p)
  | some pin =>
    match pin.trace with
    | none => .next (s.setPin p { pin with pull := pull })
    | some _ => updateLevel inv p (s.setPin p { pin with pull := pull })

/-- PIN_ADD_LISTENER (R90). -/
def opPinAddListener (p l : Nat) (s : State) : Result :=
  match s.pins.find p with
  | none => violate (.noSuchPin p)
  | some pin => .next (s.setPin p { pin with listeners := pin.listeners ++ [l] })

/-- PIN_GET_LEVEL (R91): pure; the level is handed out. -/
def opPinGetLevel (p : Nat) (s : State) : Result :=
  match s.pins.find p with
  | none => violate (.noSuchPin p)
  | some pin => .next (s.emit (.pinLevel p pin.level))

/-- PIN_GET_MODE (R92): pure; the mode is handed out. -/
def opPinGetMode (p : Nat) (s : State) : Result :=
  match s.pins.find p with
  | none => violate (.noSuchPin p)
  | some pin => .next (s.emit (.pinMode p pin.mode))

/-- PIN_TOGGLE (R96): a floating level is left alone, without a resolution. -/
def opPinToggle (inv : Invoker) (p : Nat) (s : State) : Result :=
  match s.pins.find p with
  | none => violate (.noSuchPin p)
  | some pin =>
    match pin.level with
    | .low => pinSetLevel inv p .high s
    | .high => pinSetLevel inv p .low s
    | .floating => .next s

/-! ## Trace operations -/

/-- TRACE_NEW (R97). -/
def opTraceNew (t : Nat) (s : State) : Result :=
  if s.traces.has t then violate (.noSuchTrace t) else .next (s.setTrace t Trace.fresh)

/-- A pin joins a trace: membership, then a resolution for an output-capable pin, a synchronisation for any other (R98). -/
def joinTrace (inv : Invoker) (t p : Nat) (tr : Trace) (pin : Pin) (s : State) : Result :=
  if pin.mode.outCap then
    resolveAndPush inv t (pendingOf pin.mode pin.level)
      ((s.setTrace t { tr with members := tr.members ++ [p] }).setPin p { pin with trace := some t })
  else
    updateLevel inv p
      ((s.setTrace t { tr with members := tr.members ++ [p] }).setPin p { pin with trace := some t })

/-- TRACE_ADD_PIN (R98); the trace's handle is checked before the pin's (log 13). -/
def opTraceAddPin (inv : Invoker) (t p : Nat) (s : State) : Result :=
  match s.traces.find t with
  | none => violate (.noSuchTrace t)
  | some tr =>
    match s.pins.find p with
    | none => violate (.noSuchPin p)
    | some pin =>
      if p ∈ tr.members then .next s
      else
        match pin.trace with
        | none => joinTrace inv t p tr pin s
        | some t' => if t' = t then joinTrace inv t p tr pin s else violate (.pinAlreadyOnTrace p)

/-- TRACE_GET_LEVEL (R100): pure; the level is handed out. -/
def opTraceGetLevel (t : Nat) (s : State) : Result :=
  match s.traces.find t with
  | none => violate (.noSuchTrace t)
  | some tr => .next (s.emit (.traceLevel t tr.level))

/-- The three trace-pull operations (R101 to R103): store the setting, then `ResolveAndPush(t, Z)`. -/
def opTracePull (inv : Invoker) (t : Nat) (pull : Pull) (s : State) : Result :=
  match s.traces.find t with
  | none => violate (.noSuchTrace t)
  | some tr => resolveAndPush inv t .floating (s.setTrace t { tr with pull := pull })

/-- TRACE_TOGGLE (R107). -/
def opTraceToggle (inv : Invoker) (t : Nat) (s : State) : Result :=
  match s.traces.find t with
  | none => violate (.noSuchTrace t)
  | some tr =>
    match tr.level with
    | .low => resolveAndPush inv t .high s
    | .high => resolveAndPush inv t .low s
    | .floating => .next s

/-! ## The register side -/

/-- VIC_SET_FIELD (R232): one field, nothing else. -/
def opVicSetField (f : FieldId) (value : BitVec 12) (s : State) : Result :=
  match s.vic.regs.write f value with
  | none => violate (.noSuchField f)
  | some r => .next (s.setRegs r)

/-- VIC_WRITE_YEXPAND (R204). -/
def opVicWriteYExpand (value : BitVec 8) (s : State) : Result := .next (s.setVic (s.vic.writeYExpand value))

/-- VIC_WRITE_RASTER_COMPARE (R233): the latch is stored and nothing is compared. -/
def opVicWriteRasterCompare (value : BitVec 9) (s : State) : Result :=
  .next (s.setVic { s.vic with rasterLatch := value })

/-! ## A command issued under an invoker -/

/-- An interface operation under an invoker: an arm for every operation of R65. `runCommandWord` reaches it with what
`decodeCmd` accepts, which is never an internal operation and never a word of another format (R71), so the last three
arms are there for totality alone. -/
def runCommand (inv : Invoker) (i : Instr) (s : State) : Result :=
  match i with
  | .pinNew p m => opPinNew p.toNat m s
  | .pinSetLevel p v => pinSetLevel inv p.toNat v s
  | .pinSetMode p m => opPinSetMode inv p.toNat m s
  | .pinPullUp p => opPinPull inv p.toNat .up s
  | .pinPullDown p => opPinPull inv p.toNat .down s
  | .pinNoPull p => opPinPull inv p.toNat .none s
  | .pinAddListener p l => opPinAddListener p.toNat l.toNat s
  | .pinGetLevel p => opPinGetLevel p.toNat s
  | .pinGetMode p => opPinGetMode p.toNat s
  | .pinSet p => pinSetLevel inv p.toNat .high s
  | .pinClear p => pinSetLevel inv p.toNat .low s
  | .pinFloat p => pinSetLevel inv p.toNat .floating s
  | .pinToggle p => opPinToggle inv p.toNat s
  | .traceNew t => opTraceNew t.toNat s
  | .traceAddPin t p => opTraceAddPin inv t.toNat p.toNat s
  | .traceSetLevel t v => resolveAndPush inv t.toNat v s
  | .traceGetLevel t => opTraceGetLevel t.toNat s
  | .tracePullUp t => opTracePull inv t.toNat .up s
  | .tracePullDown t => opTracePull inv t.toNat .down s
  | .traceNoPull t => opTracePull inv t.toNat .none s
  | .traceSet t => resolveAndPush inv t.toNat .high s
  | .traceClear t => resolveAndPush inv t.toNat .low s
  | .traceFloat t => resolveAndPush inv t.toNat .floating s
  | .traceToggle t => opTraceToggle inv t.toNat s
  | .vicTick => vicStep inv s
  | .vicSetField f v => opVicSetField f v s
  | .vicWriteYExpand v => opVicWriteYExpand v s
  | .vicWriteRasterCompare v => opVicWriteRasterCompare v s
  | .vicAckRasterIrq => ackRasterIrq inv s
  | .updateLevel p => violate (.internalOpcode (cmdWord 0xF0 p 0))
  | .resolveAndPush t v => violate (.internalOpcode (cmdWord 0xF1 t (immB (encodeSignal v))))
  | _ => violate (.unknownOpcode 0)

/-- A command word issued at the interface (R108): decoded, then run. -/
def runCommandWord (inv : Invoker) (w : CmdWord) (s : State) : Result :=
  match decodeCmd w with
  | .error v => violate v
  | .ok i => runCommand inv i s

end Sys2Proof.Machine
end

