-- ==== Sys2Proof/Machine/Invoke.lean ====
section
/-! DEFINITION. `Invoke(l, p)` (40_substrate_pin_trace R108) and its bound FUEL (R109): a listener's behaviour is data in
`State.env` (log 3), and each nested invocation has one unit of fuel less. -/
namespace Sys2Proof.Machine

/-- The level of a pin; a pin that is not there floats. -/
def State.pinLevel (s : State) (p : Nat) : Signal :=
  match s.pins.find p with
  | some pin => pin.level
  | none => .floating

/-- What a query answers in a state, asked by a listener that was invoked for pin `p` (R108). -/
def Query.holds (p : Nat) (s : State) : Query → Bool
  | .thisPin q => p == q
  | .thisLevel v => s.pinLevel p == v
  | .pinLevel q v => s.pins.has q && s.pinLevel q == v
  | .pinMode q m =>
    match s.pins.find q with
    | some pin => pin.mode == m
    | none => false
  | .traceLevel t v =>
    match s.traces.find t with
    | some tr => tr.level == v
    | none => false
  | .rasterLow v => s.vic.rasterLow == v
  | .rasterHigh => s.vic.rasterHigh
  | .irqRequest => s.vic.irqRequestRaster
  | .display n => s.vic.sprites[n].display

/-- Run a listener's program: each operation to completion before the next (R108). -/
def runProg (inv : Invoker) (p : Nat) : ListenerProg → State → Result
  | .done, s => .next s
  | .cmd w k, s => andThen (runCommandWord inv w s) (runProg inv p k)
  | .branch q yes no, s => if q.holds p s then runProg inv p yes s else runProg inv p no s

/-- The behaviour of a listener id; an id that the environment does not list only records the call. -/
def State.behaviour (s : State) (l : Nat) : Option Behaviour := Arena.find s.env.listeners l

/-- Run a behaviour. -/
def runBehaviour (inv : Invoker) (p : Nat) (b : Option Behaviour) (s : State) : Result :=
  match b with
  | none => .next s
  | some .vicStep => vicStep inv s
  | some (.prog k) => runProg inv p k s

/-- `Invoke(l, p)` with `n` nested invocations left: with none left the stimulus never returns (R109). The call itself is
handed out, with the pin's level at that moment (log 7). -/
def invoke : Nat → Invoker
  | 0, _, _, _ => .fault .hang
  | n + 1, l, p, s => runBehaviour (invoke n) p (s.behaviour l) (s.emit (.invoked l p (s.pinLevel p)))

/-- The invoker of a stimulus: FUEL nested invocations. -/
def State.invoker (s : State) : Invoker := invoke s.env.fuel

end Sys2Proof.Machine
end

