-- ==== Sys2Proof/Machine/AccessMeanings.lean ====
section
/-! DEFINITION. The meanings of the seven access-type words (R143 to R146, R155 to R157; log 9) and of the eight graphics-mode
selectors (R147 to R154; log 10), run by themselves at the state's own coordinate. -/
namespace Sys2Proof.Machine

/-- ACC_Idle (R143). -/
def execAccIdle (s : State) : Result := runAccessHere s.invoker .idle s

/-- ACC_Refresh (R144). -/
def execAccRefresh (s : State) : Result := runAccessHere s.invoker .refresh s

/-- ACC_VideoMatrixColor (R145). -/
def execAccVideoMatrixColor (s : State) : Result := runAccessHere s.invoker .videoMatrixColor s

/-- ACC_BitmapChar (R146). -/
def execAccBitmapChar (s : State) : Result := runAccessHere s.invoker .bitmapChar s

/-- ACC_SpritePointer (R155). -/
def execAccSpritePointer (n : Fin 8) (s : State) : Result := runAccessHere s.invoker (.spritePointer n) s

/-- ACC_SpriteData (R156). -/
def execAccSpriteData (n : Fin 8) (s : State) : Result := runAccessHere s.invoker (.spriteData n) s

/-- ACC_CpuOwned (R157). -/
def execAccCpuOwned (s : State) : Result := runAccessHere s.invoker .cpuOwned s

/-- GMODE_0 (R147). -/
def execGmode0 (s : State) : Result := runGModeHere s.invoker 0 s

/-- GMODE_1 (R148). -/
def execGmode1 (s : State) : Result := runGModeHere s.invoker 1 s

/-- GMODE_2 (R149). -/
def execGmode2 (s : State) : Result := runGModeHere s.invoker 2 s

/-- GMODE_3 (R150). -/
def execGmode3 (s : State) : Result := runGModeHere s.invoker 3 s

/-- GMODE_4 (R151). -/
def execGmode4 (s : State) : Result := runGModeHere s.invoker 4 s

/-- GMODE_5 (R152). -/
def execGmode5 (s : State) : Result := runGModeHere s.invoker 5 s

/-- GMODE_6 (R153). -/
def execGmode6 (s : State) : Result := runGModeHere s.invoker 6 s

/-- GMODE_7 (R154). -/
def execGmode7 (s : State) : Result := runGModeHere s.invoker 7 s

end Sys2Proof.Machine
end

