-- ==== Sys2Proof/Machine/PinMeanings.lean ====
section
/-! DEFINITION. The meanings of the pin operations (R84 to R96). -/
namespace Sys2Proof.Machine

/-- PIN_NEW (R84). -/
def execPinNew (p : Handle) (m : Mode) (s : State) : Result := opPinNew p.toNat m s

/-- PIN_SET_LEVEL (R85). -/
def execPinSetLevel (p : Handle) (v : Signal) (s : State) : Result := pinSetLevel s.invoker p.toNat v s

/-- PIN_SET_MODE (R86). -/
def execPinSetMode (p : Handle) (m : Mode) (s : State) : Result := opPinSetMode s.invoker p.toNat m s

/-- PIN_PULL_UP (R87). -/
def execPinPullUp (p : Handle) (s : State) : Result := opPinPull s.invoker p.toNat .up s

/-- PIN_PULL_DOWN (R88). -/
def execPinPullDown (p : Handle) (s : State) : Result := opPinPull s.invoker p.toNat .down s

/-- PIN_NO_PULL (R89). -/
def execPinNoPull (p : Handle) (s : State) : Result := opPinPull s.invoker p.toNat .none s

/-- PIN_ADD_LISTENER (R90). -/
def execPinAddListener (p : Handle) (l : Handle) (s : State) : Result := opPinAddListener p.toNat l.toNat s

/-- PIN_GET_LEVEL (R91). -/
def execPinGetLevel (p : Handle) (s : State) : Result := opPinGetLevel p.toNat s

/-- PIN_GET_MODE (R92). -/
def execPinGetMode (p : Handle) (s : State) : Result := opPinGetMode p.toNat s

/-- PIN_SET (R93). -/
def execPinSet (p : Handle) (s : State) : Result := pinSetLevel s.invoker p.toNat .high s

/-- PIN_CLEAR (R94). -/
def execPinClear (p : Handle) (s : State) : Result := pinSetLevel s.invoker p.toNat .low s

/-- PIN_FLOAT (R95). -/
def execPinFloat (p : Handle) (s : State) : Result := pinSetLevel s.invoker p.toNat .floating s

/-- PIN_TOGGLE (R96). -/
def execPinToggle (p : Handle) (s : State) : Result := opPinToggle s.invoker p.toNat s

end Sys2Proof.Machine
end

