-- ==== Sys2Proof/Machine/SlotMeanings.lean ====
section
/-! DEFINITION. The meanings of the 130 slot words (30_encoding R67): the scheduler's work for one half-cycle, sub-steps 6 to
10 of STEP (log 8). Each is SlotDecode at its own phase and cycle; which access it selects is R140 and R141's. -/
namespace Sys2Proof.Machine

/-- SLOT_P1_C01 (R140): Idle. -/
def execSlotP1C01 (s : State) : Result := runSlot s.invoker .one 1 s

/-- SLOT_P1_C02 (R140): SpritePointer(3). -/
def execSlotP1C02 (s : State) : Result := runSlot s.invoker .one 2 s

/-- SLOT_P1_C03 (R140): SpriteData(3) if `dma[3]` else Idle. -/
def execSlotP1C03 (s : State) : Result := runSlot s.invoker .one 3 s

/-- SLOT_P1_C04 (R140): SpritePointer(4). -/
def execSlotP1C04 (s : State) : Result := runSlot s.invoker .one 4 s

/-- SLOT_P1_C05 (R140): SpriteData(4) if `dma[4]` else Idle. -/
def execSlotP1C05 (s : State) : Result := runSlot s.invoker .one 5 s

/-- SLOT_P1_C06 (R140): SpritePointer(5). -/
def execSlotP1C06 (s : State) : Result := runSlot s.invoker .one 6 s

/-- SLOT_P1_C07 (R140): SpriteData(5) if `dma[5]` else Idle. -/
def execSlotP1C07 (s : State) : Result := runSlot s.invoker .one 7 s

/-- SLOT_P1_C08 (R140): SpritePointer(6). -/
def execSlotP1C08 (s : State) : Result := runSlot s.invoker .one 8 s

/-- SLOT_P1_C09 (R140): SpriteData(6) if `dma[6]` else Idle. -/
def execSlotP1C09 (s : State) : Result := runSlot s.invoker .one 9 s

/-- SLOT_P1_C10 (R140): SpritePointer(7). -/
def execSlotP1C10 (s : State) : Result := runSlot s.invoker .one 10 s

/-- SLOT_P1_C11 (R140): Refresh. -/
def execSlotP1C11 (s : State) : Result := runSlot s.invoker .one 11 s

/-- SLOT_P1_C12 (R140): Refresh. -/
def execSlotP1C12 (s : State) : Result := runSlot s.invoker .one 12 s

/-- SLOT_P1_C13 (R140): Refresh. -/
def execSlotP1C13 (s : State) : Result := runSlot s.invoker .one 13 s

/-- SLOT_P1_C14 (R140): Refresh. -/
def execSlotP1C14 (s : State) : Result := runSlot s.invoker .one 14 s

/-- SLOT_P1_C15 (R140): Refresh. -/
def execSlotP1C15 (s : State) : Result := runSlot s.invoker .one 15 s

/-- SLOT_P1_C16 (R140): BitmapChar. -/
def execSlotP1C16 (s : State) : Result := runSlot s.invoker .one 16 s

/-- SLOT_P1_C17 (R140): BitmapChar. -/
def execSlotP1C17 (s : State) : Result := runSlot s.invoker .one 17 s

/-- SLOT_P1_C18 (R140): BitmapChar. -/
def execSlotP1C18 (s : State) : Result := runSlot s.invoker .one 18 s

/-- SLOT_P1_C19 (R140): BitmapChar. -/
def execSlotP1C19 (s : State) : Result := runSlot s.invoker .one 19 s

/-- SLOT_P1_C20 (R140): BitmapChar. -/
def execSlotP1C20 (s : State) : Result := runSlot s.invoker .one 20 s

/-- SLOT_P1_C21 (R140): BitmapChar. -/
def execSlotP1C21 (s : State) : Result := runSlot s.invoker .one 21 s

/-- SLOT_P1_C22 (R140): BitmapChar. -/
def execSlotP1C22 (s : State) : Result := runSlot s.invoker .one 22 s

/-- SLOT_P1_C23 (R140): BitmapChar. -/
def execSlotP1C23 (s : State) : Result := runSlot s.invoker .one 23 s

/-- SLOT_P1_C24 (R140): BitmapChar. -/
def execSlotP1C24 (s : State) : Result := runSlot s.invoker .one 24 s

/-- SLOT_P1_C25 (R140): BitmapChar. -/
def execSlotP1C25 (s : State) : Result := runSlot s.invoker .one 25 s

/-- SLOT_P1_C26 (R140): BitmapChar. -/
def execSlotP1C26 (s : State) : Result := runSlot s.invoker .one 26 s

/-- SLOT_P1_C27 (R140): BitmapChar. -/
def execSlotP1C27 (s : State) : Result := runSlot s.invoker .one 27 s

/-- SLOT_P1_C28 (R140): BitmapChar. -/
def execSlotP1C28 (s : State) : Result := runSlot s.invoker .one 28 s

/-- SLOT_P1_C29 (R140): BitmapChar. -/
def execSlotP1C29 (s : State) : Result := runSlot s.invoker .one 29 s

/-- SLOT_P1_C30 (R140): BitmapChar. -/
def execSlotP1C30 (s : State) : Result := runSlot s.invoker .one 30 s

/-- SLOT_P1_C31 (R140): BitmapChar. -/
def execSlotP1C31 (s : State) : Result := runSlot s.invoker .one 31 s

/-- SLOT_P1_C32 (R140): BitmapChar. -/
def execSlotP1C32 (s : State) : Result := runSlot s.invoker .one 32 s

/-- SLOT_P1_C33 (R140): BitmapChar. -/
def execSlotP1C33 (s : State) : Result := runSlot s.invoker .one 33 s

/-- SLOT_P1_C34 (R140): BitmapChar. -/
def execSlotP1C34 (s : State) : Result := runSlot s.invoker .one 34 s

/-- SLOT_P1_C35 (R140): BitmapChar. -/
def execSlotP1C35 (s : State) : Result := runSlot s.invoker .one 35 s

/-- SLOT_P1_C36 (R140): BitmapChar. -/
def execSlotP1C36 (s : State) : Result := runSlot s.invoker .one 36 s

/-- SLOT_P1_C37 (R140): BitmapChar. -/
def execSlotP1C37 (s : State) : Result := runSlot s.invoker .one 37 s

/-- SLOT_P1_C38 (R140): BitmapChar. -/
def execSlotP1C38 (s : State) : Result := runSlot s.invoker .one 38 s

/-- SLOT_P1_C39 (R140): BitmapChar. -/
def execSlotP1C39 (s : State) : Result := runSlot s.invoker .one 39 s

/-- SLOT_P1_C40 (R140): BitmapChar. -/
def execSlotP1C40 (s : State) : Result := runSlot s.invoker .one 40 s

/-- SLOT_P1_C41 (R140): BitmapChar. -/
def execSlotP1C41 (s : State) : Result := runSlot s.invoker .one 41 s

/-- SLOT_P1_C42 (R140): BitmapChar. -/
def execSlotP1C42 (s : State) : Result := runSlot s.invoker .one 42 s

/-- SLOT_P1_C43 (R140): BitmapChar. -/
def execSlotP1C43 (s : State) : Result := runSlot s.invoker .one 43 s

/-- SLOT_P1_C44 (R140): BitmapChar. -/
def execSlotP1C44 (s : State) : Result := runSlot s.invoker .one 44 s

/-- SLOT_P1_C45 (R140): BitmapChar. -/
def execSlotP1C45 (s : State) : Result := runSlot s.invoker .one 45 s

/-- SLOT_P1_C46 (R140): BitmapChar. -/
def execSlotP1C46 (s : State) : Result := runSlot s.invoker .one 46 s

/-- SLOT_P1_C47 (R140): BitmapChar. -/
def execSlotP1C47 (s : State) : Result := runSlot s.invoker .one 47 s

/-- SLOT_P1_C48 (R140): BitmapChar. -/
def execSlotP1C48 (s : State) : Result := runSlot s.invoker .one 48 s

/-- SLOT_P1_C49 (R140): BitmapChar. -/
def execSlotP1C49 (s : State) : Result := runSlot s.invoker .one 49 s

/-- SLOT_P1_C50 (R140): BitmapChar. -/
def execSlotP1C50 (s : State) : Result := runSlot s.invoker .one 50 s

/-- SLOT_P1_C51 (R140): BitmapChar. -/
def execSlotP1C51 (s : State) : Result := runSlot s.invoker .one 51 s

/-- SLOT_P1_C52 (R140): BitmapChar. -/
def execSlotP1C52 (s : State) : Result := runSlot s.invoker .one 52 s

/-- SLOT_P1_C53 (R140): BitmapChar. -/
def execSlotP1C53 (s : State) : Result := runSlot s.invoker .one 53 s

/-- SLOT_P1_C54 (R140): BitmapChar. -/
def execSlotP1C54 (s : State) : Result := runSlot s.invoker .one 54 s

/-- SLOT_P1_C55 (R140): BitmapChar. -/
def execSlotP1C55 (s : State) : Result := runSlot s.invoker .one 55 s

/-- SLOT_P1_C56 (R140): Idle. -/
def execSlotP1C56 (s : State) : Result := runSlot s.invoker .one 56 s

/-- SLOT_P1_C57 (R140): Idle. -/
def execSlotP1C57 (s : State) : Result := runSlot s.invoker .one 57 s

/-- SLOT_P1_C58 (R140): Idle. -/
def execSlotP1C58 (s : State) : Result := runSlot s.invoker .one 58 s

/-- SLOT_P1_C59 (R140): Idle. -/
def execSlotP1C59 (s : State) : Result := runSlot s.invoker .one 59 s

/-- SLOT_P1_C60 (R140): SpritePointer(0). -/
def execSlotP1C60 (s : State) : Result := runSlot s.invoker .one 60 s

/-- SLOT_P1_C61 (R140): SpriteData(0) if `dma[0]` else Idle. -/
def execSlotP1C61 (s : State) : Result := runSlot s.invoker .one 61 s

/-- SLOT_P1_C62 (R140): SpritePointer(1). -/
def execSlotP1C62 (s : State) : Result := runSlot s.invoker .one 62 s

/-- SLOT_P1_C63 (R140): SpriteData(1) if `dma[1]` else Idle. -/
def execSlotP1C63 (s : State) : Result := runSlot s.invoker .one 63 s

/-- SLOT_P1_C64 (R140): SpritePointer(2). -/
def execSlotP1C64 (s : State) : Result := runSlot s.invoker .one 64 s

/-- SLOT_P1_C65 (R140): SpriteData(2) if `dma[2]` else Idle. -/
def execSlotP1C65 (s : State) : Result := runSlot s.invoker .one 65 s

/-- SLOT_P2_C01 (R141): CpuOwned. -/
def execSlotP2C01 (s : State) : Result := runSlot s.invoker .two 1 s

/-- SLOT_P2_C02 (R141): SpriteData(3) if `dma[3]` else CpuOwned. -/
def execSlotP2C02 (s : State) : Result := runSlot s.invoker .two 2 s

/-- SLOT_P2_C03 (R141): CpuOwned. -/
def execSlotP2C03 (s : State) : Result := runSlot s.invoker .two 3 s

/-- SLOT_P2_C04 (R141): SpriteData(4) if `dma[4]` else CpuOwned. -/
def execSlotP2C04 (s : State) : Result := runSlot s.invoker .two 4 s

/-- SLOT_P2_C05 (R141): CpuOwned. -/
def execSlotP2C05 (s : State) : Result := runSlot s.invoker .two 5 s

/-- SLOT_P2_C06 (R141): SpriteData(5) if `dma[5]` else CpuOwned. -/
def execSlotP2C06 (s : State) : Result := runSlot s.invoker .two 6 s

/-- SLOT_P2_C07 (R141): CpuOwned. -/
def execSlotP2C07 (s : State) : Result := runSlot s.invoker .two 7 s

/-- SLOT_P2_C08 (R141): SpriteData(6) if `dma[6]` else CpuOwned. -/
def execSlotP2C08 (s : State) : Result := runSlot s.invoker .two 8 s

/-- SLOT_P2_C09 (R141): CpuOwned. -/
def execSlotP2C09 (s : State) : Result := runSlot s.invoker .two 9 s

/-- SLOT_P2_C10 (R141): SpriteData(7) if `dma[7]` else CpuOwned. -/
def execSlotP2C10 (s : State) : Result := runSlot s.invoker .two 10 s

/-- SLOT_P2_C11 (R141): CpuOwned. -/
def execSlotP2C11 (s : State) : Result := runSlot s.invoker .two 11 s

/-- SLOT_P2_C12 (R141): CpuOwned. -/
def execSlotP2C12 (s : State) : Result := runSlot s.invoker .two 12 s

/-- SLOT_P2_C13 (R141): CpuOwned. -/
def execSlotP2C13 (s : State) : Result := runSlot s.invoker .two 13 s

/-- SLOT_P2_C14 (R141): CpuOwned. -/
def execSlotP2C14 (s : State) : Result := runSlot s.invoker .two 14 s

/-- SLOT_P2_C15 (R141): VideoMatrixColor if `badLine` else CpuOwned. -/
def execSlotP2C15 (s : State) : Result := runSlot s.invoker .two 15 s

/-- SLOT_P2_C16 (R141): VideoMatrixColor if `badLine` else CpuOwned. -/
def execSlotP2C16 (s : State) : Result := runSlot s.invoker .two 16 s

/-- SLOT_P2_C17 (R141): VideoMatrixColor if `badLine` else CpuOwned. -/
def execSlotP2C17 (s : State) : Result := runSlot s.invoker .two 17 s

/-- SLOT_P2_C18 (R141): VideoMatrixColor if `badLine` else CpuOwned. -/
def execSlotP2C18 (s : State) : Result := runSlot s.invoker .two 18 s

/-- SLOT_P2_C19 (R141): VideoMatrixColor if `badLine` else CpuOwned. -/
def execSlotP2C19 (s : State) : Result := runSlot s.invoker .two 19 s

/-- SLOT_P2_C20 (R141): VideoMatrixColor if `badLine` else CpuOwned. -/
def execSlotP2C20 (s : State) : Result := runSlot s.invoker .two 20 s

/-- SLOT_P2_C21 (R141): VideoMatrixColor if `badLine` else CpuOwned. -/
def execSlotP2C21 (s : State) : Result := runSlot s.invoker .two 21 s

/-- SLOT_P2_C22 (R141): VideoMatrixColor if `badLine` else CpuOwned. -/
def execSlotP2C22 (s : State) : Result := runSlot s.invoker .two 22 s

/-- SLOT_P2_C23 (R141): VideoMatrixColor if `badLine` else CpuOwned. -/
def execSlotP2C23 (s : State) : Result := runSlot s.invoker .two 23 s

/-- SLOT_P2_C24 (R141): VideoMatrixColor if `badLine` else CpuOwned. -/
def execSlotP2C24 (s : State) : Result := runSlot s.invoker .two 24 s

/-- SLOT_P2_C25 (R141): VideoMatrixColor if `badLine` else CpuOwned. -/
def execSlotP2C25 (s : State) : Result := runSlot s.invoker .two 25 s

/-- SLOT_P2_C26 (R141): VideoMatrixColor if `badLine` else CpuOwned. -/
def execSlotP2C26 (s : State) : Result := runSlot s.invoker .two 26 s

/-- SLOT_P2_C27 (R141): VideoMatrixColor if `badLine` else CpuOwned. -/
def execSlotP2C27 (s : State) : Result := runSlot s.invoker .two 27 s

/-- SLOT_P2_C28 (R141): VideoMatrixColor if `badLine` else CpuOwned. -/
def execSlotP2C28 (s : State) : Result := runSlot s.invoker .two 28 s

/-- SLOT_P2_C29 (R141): VideoMatrixColor if `badLine` else CpuOwned. -/
def execSlotP2C29 (s : State) : Result := runSlot s.invoker .two 29 s

/-- SLOT_P2_C30 (R141): VideoMatrixColor if `badLine` else CpuOwned. -/
def execSlotP2C30 (s : State) : Result := runSlot s.invoker .two 30 s

/-- SLOT_P2_C31 (R141): VideoMatrixColor if `badLine` else CpuOwned. -/
def execSlotP2C31 (s : State) : Result := runSlot s.invoker .two 31 s

/-- SLOT_P2_C32 (R141): VideoMatrixColor if `badLine` else CpuOwned. -/
def execSlotP2C32 (s : State) : Result := runSlot s.invoker .two 32 s

/-- SLOT_P2_C33 (R141): VideoMatrixColor if `badLine` else CpuOwned. -/
def execSlotP2C33 (s : State) : Result := runSlot s.invoker .two 33 s

/-- SLOT_P2_C34 (R141): VideoMatrixColor if `badLine` else CpuOwned. -/
def execSlotP2C34 (s : State) : Result := runSlot s.invoker .two 34 s

/-- SLOT_P2_C35 (R141): VideoMatrixColor if `badLine` else CpuOwned. -/
def execSlotP2C35 (s : State) : Result := runSlot s.invoker .two 35 s

/-- SLOT_P2_C36 (R141): VideoMatrixColor if `badLine` else CpuOwned. -/
def execSlotP2C36 (s : State) : Result := runSlot s.invoker .two 36 s

/-- SLOT_P2_C37 (R141): VideoMatrixColor if `badLine` else CpuOwned. -/
def execSlotP2C37 (s : State) : Result := runSlot s.invoker .two 37 s

/-- SLOT_P2_C38 (R141): VideoMatrixColor if `badLine` else CpuOwned. -/
def execSlotP2C38 (s : State) : Result := runSlot s.invoker .two 38 s

/-- SLOT_P2_C39 (R141): VideoMatrixColor if `badLine` else CpuOwned. -/
def execSlotP2C39 (s : State) : Result := runSlot s.invoker .two 39 s

/-- SLOT_P2_C40 (R141): VideoMatrixColor if `badLine` else CpuOwned. -/
def execSlotP2C40 (s : State) : Result := runSlot s.invoker .two 40 s

/-- SLOT_P2_C41 (R141): VideoMatrixColor if `badLine` else CpuOwned. -/
def execSlotP2C41 (s : State) : Result := runSlot s.invoker .two 41 s

/-- SLOT_P2_C42 (R141): VideoMatrixColor if `badLine` else CpuOwned. -/
def execSlotP2C42 (s : State) : Result := runSlot s.invoker .two 42 s

/-- SLOT_P2_C43 (R141): VideoMatrixColor if `badLine` else CpuOwned. -/
def execSlotP2C43 (s : State) : Result := runSlot s.invoker .two 43 s

/-- SLOT_P2_C44 (R141): VideoMatrixColor if `badLine` else CpuOwned. -/
def execSlotP2C44 (s : State) : Result := runSlot s.invoker .two 44 s

/-- SLOT_P2_C45 (R141): VideoMatrixColor if `badLine` else CpuOwned. -/
def execSlotP2C45 (s : State) : Result := runSlot s.invoker .two 45 s

/-- SLOT_P2_C46 (R141): VideoMatrixColor if `badLine` else CpuOwned. -/
def execSlotP2C46 (s : State) : Result := runSlot s.invoker .two 46 s

/-- SLOT_P2_C47 (R141): VideoMatrixColor if `badLine` else CpuOwned. -/
def execSlotP2C47 (s : State) : Result := runSlot s.invoker .two 47 s

/-- SLOT_P2_C48 (R141): VideoMatrixColor if `badLine` else CpuOwned. -/
def execSlotP2C48 (s : State) : Result := runSlot s.invoker .two 48 s

/-- SLOT_P2_C49 (R141): VideoMatrixColor if `badLine` else CpuOwned. -/
def execSlotP2C49 (s : State) : Result := runSlot s.invoker .two 49 s

/-- SLOT_P2_C50 (R141): VideoMatrixColor if `badLine` else CpuOwned. -/
def execSlotP2C50 (s : State) : Result := runSlot s.invoker .two 50 s

/-- SLOT_P2_C51 (R141): VideoMatrixColor if `badLine` else CpuOwned. -/
def execSlotP2C51 (s : State) : Result := runSlot s.invoker .two 51 s

/-- SLOT_P2_C52 (R141): VideoMatrixColor if `badLine` else CpuOwned. -/
def execSlotP2C52 (s : State) : Result := runSlot s.invoker .two 52 s

/-- SLOT_P2_C53 (R141): VideoMatrixColor if `badLine` else CpuOwned. -/
def execSlotP2C53 (s : State) : Result := runSlot s.invoker .two 53 s

/-- SLOT_P2_C54 (R141): VideoMatrixColor if `badLine` else CpuOwned. -/
def execSlotP2C54 (s : State) : Result := runSlot s.invoker .two 54 s

/-- SLOT_P2_C55 (R141): CpuOwned. -/
def execSlotP2C55 (s : State) : Result := runSlot s.invoker .two 55 s

/-- SLOT_P2_C56 (R141): CpuOwned. -/
def execSlotP2C56 (s : State) : Result := runSlot s.invoker .two 56 s

/-- SLOT_P2_C57 (R141): CpuOwned. -/
def execSlotP2C57 (s : State) : Result := runSlot s.invoker .two 57 s

/-- SLOT_P2_C58 (R141): CpuOwned. -/
def execSlotP2C58 (s : State) : Result := runSlot s.invoker .two 58 s

/-- SLOT_P2_C59 (R141): CpuOwned. -/
def execSlotP2C59 (s : State) : Result := runSlot s.invoker .two 59 s

/-- SLOT_P2_C60 (R141): SpriteData(0) if `dma[0]` else CpuOwned. -/
def execSlotP2C60 (s : State) : Result := runSlot s.invoker .two 60 s

/-- SLOT_P2_C61 (R141): CpuOwned. -/
def execSlotP2C61 (s : State) : Result := runSlot s.invoker .two 61 s

/-- SLOT_P2_C62 (R141): SpriteData(1) if `dma[1]` else CpuOwned. -/
def execSlotP2C62 (s : State) : Result := runSlot s.invoker .two 62 s

/-- SLOT_P2_C63 (R141): CpuOwned. -/
def execSlotP2C63 (s : State) : Result := runSlot s.invoker .two 63 s

/-- SLOT_P2_C64 (R141): SpriteData(2) if `dma[2]` else CpuOwned. -/
def execSlotP2C64 (s : State) : Result := runSlot s.invoker .two 64 s

/-- SLOT_P2_C65 (R141): CpuOwned. -/
def execSlotP2C65 (s : State) : Result := runSlot s.invoker .two 65 s

end Sys2Proof.Machine
end

