-- ==== Sys2Proof/Machine/TraceMeanings.lean ====
section
/-! DEFINITION. The meanings of the trace operations (R97 to R107) and of the two internal operations (R82, R83). A handle that
names nothing is a contract violation for the internal operations too (R71; log 15). -/
namespace Sys2Proof.Machine

/-- TRACE_NEW (R97). -/
def execTraceNew (t : Handle) (s : State) : Result := opTraceNew t.toNat s

/-- TRACE_ADD_PIN (R98). -/
def execTraceAddPin (t : Handle) (p : Handle) (s : State) : Result := opTraceAddPin s.invoker t.toNat p.toNat s

/-- TRACE_SET_LEVEL (R99). -/
def execTraceSetLevel (t : Handle) (v : Signal) (s : State) : Result := resolveAndPush s.invoker t.toNat v s

/-- TRACE_GET_LEVEL (R100). -/
def execTraceGetLevel (t : Handle) (s : State) : Result := opTraceGetLevel t.toNat s

/-- TRACE_PULL_UP (R101). -/
def execTracePullUp (t : Handle) (s : State) : Result := opTracePull s.invoker t.toNat .up s

/-- TRACE_PULL_DOWN (R102). -/
def execTracePullDown (t : Handle) (s : State) : Result := opTracePull s.invoker t.toNat .down s

/-- TRACE_NO_PULL (R103). -/
def execTraceNoPull (t : Handle) (s : State) : Result := opTracePull s.invoker t.toNat .none s

/-- TRACE_SET (R104). -/
def execTraceSet (t : Handle) (s : State) : Result := resolveAndPush s.invoker t.toNat .high s

/-- TRACE_CLEAR (R105). -/
def execTraceClear (t : Handle) (s : State) : Result := resolveAndPush s.invoker t.toNat .low s

/-- TRACE_FLOAT (R106). -/
def execTraceFloat (t : Handle) (s : State) : Result := resolveAndPush s.invoker t.toNat .floating s

/-- TRACE_TOGGLE (R107). -/
def execTraceToggle (t : Handle) (s : State) : Result := opTraceToggle s.invoker t.toNat s

/-- UPDATE_LEVEL (R83). -/
def execUpdateLevel (p : Handle) (s : State) : Result := updateLevel s.invoker p.toNat s

/-- RESOLVE_AND_PUSH (R82). -/
def execResolveAndPush (t : Handle) (pending : Signal) (s : State) : Result := resolveAndPush s.invoker t.toNat pending s

end Sys2Proof.Machine
end

