-- ==== Sys2Proof/Machine/VicMeanings.lean ====
section
/-! DEFINITION. The meanings of the block's system operations: VIC_TICK (R127) and the register side (R204, R232 to R234). -/
namespace Sys2Proof.Machine

/-- VIC_TICK (R127). -/
def execVicTick (s : State) : Result := vicStep s.invoker s

/-- VIC_SET_FIELD (R232). -/
def execVicSetField (f : FieldId) (value : BitVec 12) (s : State) : Result := opVicSetField f value s

/-- VIC_WRITE_YEXPAND (R204). -/
def execVicWriteYExpand (value : BitVec 8) (s : State) : Result := opVicWriteYExpand value s

/-- VIC_WRITE_RASTER_COMPARE (R233). -/
def execVicWriteRasterCompare (value : BitVec 9) (s : State) : Result := opVicWriteRasterCompare value s

/-- VIC_ACK_RASTER_IRQ (R234). -/
def execVicAckRasterIrq (s : State) : Result := ackRasterIrq s.invoker s

end Sys2Proof.Machine
end

