-- ==== Sys2Proof/Machine/Dispatch.lean ====
section
/-! DEFINITION. The dispatch: one arm per instruction, each one call of its meaning. -/
namespace Sys2Proof.Machine

def exec (i : Instr) (s : State) : Host.Outcome State Fault Refusal :=
  match i with
  | .pinNew p m => Sys2Proof.Machine.execPinNew p m s
  | .pinSetLevel p v => Sys2Proof.Machine.execPinSetLevel p v s
  | .pinSetMode p m => Sys2Proof.Machine.execPinSetMode p m s
  | .pinPullUp p => Sys2Proof.Machine.execPinPullUp p s
  | .pinPullDown p => Sys2Proof.Machine.execPinPullDown p s
  | .pinNoPull p => Sys2Proof.Machine.execPinNoPull p s
  | .pinAddListener p l => Sys2Proof.Machine.execPinAddListener p l s
  | .pinGetLevel p => Sys2Proof.Machine.execPinGetLevel p s
  | .pinGetMode p => Sys2Proof.Machine.execPinGetMode p s
  | .pinSet p => Sys2Proof.Machine.execPinSet p s
  | .pinClear p => Sys2Proof.Machine.execPinClear p s
  | .pinFloat p => Sys2Proof.Machine.execPinFloat p s
  | .pinToggle p => Sys2Proof.Machine.execPinToggle p s
  | .traceNew t => Sys2Proof.Machine.execTraceNew t s
  | .traceAddPin t p => Sys2Proof.Machine.execTraceAddPin t p s
  | .traceSetLevel t v => Sys2Proof.Machine.execTraceSetLevel t v s
  | .traceGetLevel t => Sys2Proof.Machine.execTraceGetLevel t s
  | .tracePullUp t => Sys2Proof.Machine.execTracePullUp t s
  | .tracePullDown t => Sys2Proof.Machine.execTracePullDown t s
  | .traceNoPull t => Sys2Proof.Machine.execTraceNoPull t s
  | .traceSet t => Sys2Proof.Machine.execTraceSet t s
  | .traceClear t => Sys2Proof.Machine.execTraceClear t s
  | .traceFloat t => Sys2Proof.Machine.execTraceFloat t s
  | .traceToggle t => Sys2Proof.Machine.execTraceToggle t s
  | .vicTick => Sys2Proof.Machine.execVicTick s
  | .vicSetField f value => Sys2Proof.Machine.execVicSetField f value s
  | .vicWriteYExpand value => Sys2Proof.Machine.execVicWriteYExpand value s
  | .vicWriteRasterCompare value => Sys2Proof.Machine.execVicWriteRasterCompare value s
  | .vicAckRasterIrq => Sys2Proof.Machine.execVicAckRasterIrq s
  | .updateLevel p => Sys2Proof.Machine.execUpdateLevel p s
  | .resolveAndPush t pending => Sys2Proof.Machine.execResolveAndPush t pending s
  | .slotP1C01 => Sys2Proof.Machine.execSlotP1C01 s
  | .slotP1C02 => Sys2Proof.Machine.execSlotP1C02 s
  | .slotP1C03 => Sys2Proof.Machine.execSlotP1C03 s
  | .slotP1C04 => Sys2Proof.Machine.execSlotP1C04 s
  | .slotP1C05 => Sys2Proof.Machine.execSlotP1C05 s
  | .slotP1C06 => Sys2Proof.Machine.execSlotP1C06 s
  | .slotP1C07 => Sys2Proof.Machine.execSlotP1C07 s
  | .slotP1C08 => Sys2Proof.Machine.execSlotP1C08 s
  | .slotP1C09 => Sys2Proof.Machine.execSlotP1C09 s
  | .slotP1C10 => Sys2Proof.Machine.execSlotP1C10 s
  | .slotP1C11 => Sys2Proof.Machine.execSlotP1C11 s
  | .slotP1C12 => Sys2Proof.Machine.execSlotP1C12 s
  | .slotP1C13 => Sys2Proof.Machine.execSlotP1C13 s
  | .slotP1C14 => Sys2Proof.Machine.execSlotP1C14 s
  | .slotP1C15 => Sys2Proof.Machine.execSlotP1C15 s
  | .slotP1C16 => Sys2Proof.Machine.execSlotP1C16 s
  | .slotP1C17 => Sys2Proof.Machine.execSlotP1C17 s
  | .slotP1C18 => Sys2Proof.Machine.execSlotP1C18 s
  | .slotP1C19 => Sys2Proof.Machine.execSlotP1C19 s
  | .slotP1C20 => Sys2Proof.Machine.execSlotP1C20 s
  | .slotP1C21 => Sys2Proof.Machine.execSlotP1C21 s
  | .slotP1C22 => Sys2Proof.Machine.execSlotP1C22 s
  | .slotP1C23 => Sys2Proof.Machine.execSlotP1C23 s
  | .slotP1C24 => Sys2Proof.Machine.execSlotP1C24 s
  | .slotP1C25 => Sys2Proof.Machine.execSlotP1C25 s
  | .slotP1C26 => Sys2Proof.Machine.execSlotP1C26 s
  | .slotP1C27 => Sys2Proof.Machine.execSlotP1C27 s
  | .slotP1C28 => Sys2Proof.Machine.execSlotP1C28 s
  | .slotP1C29 => Sys2Proof.Machine.execSlotP1C29 s
  | .slotP1C30 => Sys2Proof.Machine.execSlotP1C30 s
  | .slotP1C31 => Sys2Proof.Machine.execSlotP1C31 s
  | .slotP1C32 => Sys2Proof.Machine.execSlotP1C32 s
  | .slotP1C33 => Sys2Proof.Machine.execSlotP1C33 s
  | .slotP1C34 => Sys2Proof.Machine.execSlotP1C34 s
  | .slotP1C35 => Sys2Proof.Machine.execSlotP1C35 s
  | .slotP1C36 => Sys2Proof.Machine.execSlotP1C36 s
  | .slotP1C37 => Sys2Proof.Machine.execSlotP1C37 s
  | .slotP1C38 => Sys2Proof.Machine.execSlotP1C38 s
  | .slotP1C39 => Sys2Proof.Machine.execSlotP1C39 s
  | .slotP1C40 => Sys2Proof.Machine.execSlotP1C40 s
  | .slotP1C41 => Sys2Proof.Machine.execSlotP1C41 s
  | .slotP1C42 => Sys2Proof.Machine.execSlotP1C42 s
  | .slotP1C43 => Sys2Proof.Machine.execSlotP1C43 s
  | .slotP1C44 => Sys2Proof.Machine.execSlotP1C44 s
  | .slotP1C45 => Sys2Proof.Machine.execSlotP1C45 s
  | .slotP1C46 => Sys2Proof.Machine.execSlotP1C46 s
  | .slotP1C47 => Sys2Proof.Machine.execSlotP1C47 s
  | .slotP1C48 => Sys2Proof.Machine.execSlotP1C48 s
  | .slotP1C49 => Sys2Proof.Machine.execSlotP1C49 s
  | .slotP1C50 => Sys2Proof.Machine.execSlotP1C50 s
  | .slotP1C51 => Sys2Proof.Machine.execSlotP1C51 s
  | .slotP1C52 => Sys2Proof.Machine.execSlotP1C52 s
  | .slotP1C53 => Sys2Proof.Machine.execSlotP1C53 s
  | .slotP1C54 => Sys2Proof.Machine.execSlotP1C54 s
  | .slotP1C55 => Sys2Proof.Machine.execSlotP1C55 s
  | .slotP1C56 => Sys2Proof.Machine.execSlotP1C56 s
  | .slotP1C57 => Sys2Proof.Machine.execSlotP1C57 s
  | .slotP1C58 => Sys2Proof.Machine.execSlotP1C58 s
  | .slotP1C59 => Sys2Proof.Machine.execSlotP1C59 s
  | .slotP1C60 => Sys2Proof.Machine.execSlotP1C60 s
  | .slotP1C61 => Sys2Proof.Machine.execSlotP1C61 s
  | .slotP1C62 => Sys2Proof.Machine.execSlotP1C62 s
  | .slotP1C63 => Sys2Proof.Machine.execSlotP1C63 s
  | .slotP1C64 => Sys2Proof.Machine.execSlotP1C64 s
  | .slotP1C65 => Sys2Proof.Machine.execSlotP1C65 s
  | .slotP2C01 => Sys2Proof.Machine.execSlotP2C01 s
  | .slotP2C02 => Sys2Proof.Machine.execSlotP2C02 s
  | .slotP2C03 => Sys2Proof.Machine.execSlotP2C03 s
  | .slotP2C04 => Sys2Proof.Machine.execSlotP2C04 s
  | .slotP2C05 => Sys2Proof.Machine.execSlotP2C05 s
  | .slotP2C06 => Sys2Proof.Machine.execSlotP2C06 s
  | .slotP2C07 => Sys2Proof.Machine.execSlotP2C07 s
  | .slotP2C08 => Sys2Proof.Machine.execSlotP2C08 s
  | .slotP2C09 => Sys2Proof.Machine.execSlotP2C09 s
  | .slotP2C10 => Sys2Proof.Machine.execSlotP2C10 s
  | .slotP2C11 => Sys2Proof.Machine.execSlotP2C11 s
  | .slotP2C12 => Sys2Proof.Machine.execSlotP2C12 s
  | .slotP2C13 => Sys2Proof.Machine.execSlotP2C13 s
  | .slotP2C14 => Sys2Proof.Machine.execSlotP2C14 s
  | .slotP2C15 => Sys2Proof.Machine.execSlotP2C15 s
  | .slotP2C16 => Sys2Proof.Machine.execSlotP2C16 s
  | .slotP2C17 => Sys2Proof.Machine.execSlotP2C17 s
  | .slotP2C18 => Sys2Proof.Machine.execSlotP2C18 s
  | .slotP2C19 => Sys2Proof.Machine.execSlotP2C19 s
  | .slotP2C20 => Sys2Proof.Machine.execSlotP2C20 s
  | .slotP2C21 => Sys2Proof.Machine.execSlotP2C21 s
  | .slotP2C22 => Sys2Proof.Machine.execSlotP2C22 s
  | .slotP2C23 => Sys2Proof.Machine.execSlotP2C23 s
  | .slotP2C24 => Sys2Proof.Machine.execSlotP2C24 s
  | .slotP2C25 => Sys2Proof.Machine.execSlotP2C25 s
  | .slotP2C26 => Sys2Proof.Machine.execSlotP2C26 s
  | .slotP2C27 => Sys2Proof.Machine.execSlotP2C27 s
  | .slotP2C28 => Sys2Proof.Machine.execSlotP2C28 s
  | .slotP2C29 => Sys2Proof.Machine.execSlotP2C29 s
  | .slotP2C30 => Sys2Proof.Machine.execSlotP2C30 s
  | .slotP2C31 => Sys2Proof.Machine.execSlotP2C31 s
  | .slotP2C32 => Sys2Proof.Machine.execSlotP2C32 s
  | .slotP2C33 => Sys2Proof.Machine.execSlotP2C33 s
  | .slotP2C34 => Sys2Proof.Machine.execSlotP2C34 s
  | .slotP2C35 => Sys2Proof.Machine.execSlotP2C35 s
  | .slotP2C36 => Sys2Proof.Machine.execSlotP2C36 s
  | .slotP2C37 => Sys2Proof.Machine.execSlotP2C37 s
  | .slotP2C38 => Sys2Proof.Machine.execSlotP2C38 s
  | .slotP2C39 => Sys2Proof.Machine.execSlotP2C39 s
  | .slotP2C40 => Sys2Proof.Machine.execSlotP2C40 s
  | .slotP2C41 => Sys2Proof.Machine.execSlotP2C41 s
  | .slotP2C42 => Sys2Proof.Machine.execSlotP2C42 s
  | .slotP2C43 => Sys2Proof.Machine.execSlotP2C43 s
  | .slotP2C44 => Sys2Proof.Machine.execSlotP2C44 s
  | .slotP2C45 => Sys2Proof.Machine.execSlotP2C45 s
  | .slotP2C46 => Sys2Proof.Machine.execSlotP2C46 s
  | .slotP2C47 => Sys2Proof.Machine.execSlotP2C47 s
  | .slotP2C48 => Sys2Proof.Machine.execSlotP2C48 s
  | .slotP2C49 => Sys2Proof.Machine.execSlotP2C49 s
  | .slotP2C50 => Sys2Proof.Machine.execSlotP2C50 s
  | .slotP2C51 => Sys2Proof.Machine.execSlotP2C51 s
  | .slotP2C52 => Sys2Proof.Machine.execSlotP2C52 s
  | .slotP2C53 => Sys2Proof.Machine.execSlotP2C53 s
  | .slotP2C54 => Sys2Proof.Machine.execSlotP2C54 s
  | .slotP2C55 => Sys2Proof.Machine.execSlotP2C55 s
  | .slotP2C56 => Sys2Proof.Machine.execSlotP2C56 s
  | .slotP2C57 => Sys2Proof.Machine.execSlotP2C57 s
  | .slotP2C58 => Sys2Proof.Machine.execSlotP2C58 s
  | .slotP2C59 => Sys2Proof.Machine.execSlotP2C59 s
  | .slotP2C60 => Sys2Proof.Machine.execSlotP2C60 s
  | .slotP2C61 => Sys2Proof.Machine.execSlotP2C61 s
  | .slotP2C62 => Sys2Proof.Machine.execSlotP2C62 s
  | .slotP2C63 => Sys2Proof.Machine.execSlotP2C63 s
  | .slotP2C64 => Sys2Proof.Machine.execSlotP2C64 s
  | .slotP2C65 => Sys2Proof.Machine.execSlotP2C65 s
  | .accIdle => Sys2Proof.Machine.execAccIdle s
  | .accRefresh => Sys2Proof.Machine.execAccRefresh s
  | .accVideoMatrixColor => Sys2Proof.Machine.execAccVideoMatrixColor s
  | .accBitmapChar => Sys2Proof.Machine.execAccBitmapChar s
  | .accSpritePointer n => Sys2Proof.Machine.execAccSpritePointer n s
  | .accSpriteData n => Sys2Proof.Machine.execAccSpriteData n s
  | .accCpuOwned => Sys2Proof.Machine.execAccCpuOwned s
  | .gmode0 => Sys2Proof.Machine.execGmode0 s
  | .gmode1 => Sys2Proof.Machine.execGmode1 s
  | .gmode2 => Sys2Proof.Machine.execGmode2 s
  | .gmode3 => Sys2Proof.Machine.execGmode3 s
  | .gmode4 => Sys2Proof.Machine.execGmode4 s
  | .gmode5 => Sys2Proof.Machine.execGmode5 s
  | .gmode6 => Sys2Proof.Machine.execGmode6 s
  | .gmode7 => Sys2Proof.Machine.execGmode7 s

end Sys2Proof.Machine
end

