-- ==== Sys2Proof/Machine/Step.lean ====
section
/-! DEFINITION. One step: the machine takes the next stimulus that is presented to it, decodes it and runs it to completion
(R7, R46). With none presented it waits, unchanged (log 6). -/
namespace Sys2Proof.Machine

/-- A word that the decoder refuses is a contract violation (R71, R221). -/
def runFetched (f : Fetch) (s : State) : Result :=
  match decode f with
  | .error v => violate v
  | .ok i => exec i s

/-- The next stimulus, if there is one. -/
def step (s : State) : Host.Outcome State Fault Refusal :=
  match s.pending with
  | [] => .next s
  | f :: rest => runFetched f { s with pending := rest }

/-- The state with the instruction of a row of the opcode table presented as the next stimulus, at the port of its format
(log 12). -/
def State.withFetchWord (s : State) (nbits w : Nat) : State :=
  match fetchOfTableWord nbits w with
  | some f => { s with pending := f :: s.pending }
  | none => s

end Sys2Proof.Machine
end

