-- ==== Sys2Proof/Safety.lean ====
section
/-! DEFINITION. The words that statements are made in: what completes, which states are well connected, synchronised and in
range, which listeners only record, and what a push does. -/
namespace Sys2Proof

/-! ## Groups of instructions of one shape -/

/-- The pin and the level that a pin-set operation asks for (R85, R93 to R95). -/
def Instr.pinSets : Instr → Option (Handle × Signal)
  | .pinSetLevel p v => some (p, v)
  | .pinSet p => some (p, .high)
  | .pinClear p => some (p, .low)
  | .pinFloat p => some (p, .floating)
  | _ => none

/-- The trace and the value that a trace-set operation resolves with, RESOLVE_AND_PUSH among them (R82, R99, R104 to
R106). -/
def Instr.traceSets : Instr → Option (Handle × Signal)
  | .traceSetLevel t v => some (t, v)
  | .traceSet t => some (t, .high)
  | .traceClear t => some (t, .low)
  | .traceFloat t => some (t, .floating)
  | .resolveAndPush t v => some (t, v)
  | _ => none

/-- The pin and the setting of a pin-pull operation (R87 to R89). -/
def Instr.pinPulls : Instr → Option (Handle × Pull)
  | .pinPullUp p => some (p, .up)
  | .pinPullDown p => some (p, .down)
  | .pinNoPull p => some (p, .none)
  | _ => none

/-- The trace and the setting of a trace-pull operation (R101 to R103). -/
def Instr.tracePulls : Instr → Option (Handle × Pull)
  | .tracePullUp t => some (t, .up)
  | .tracePullDown t => some (t, .down)
  | .traceNoPull t => some (t, .none)
  | _ => none

/-- `i` sets pin `p`, whose record is `pin`, to `v`: one of the set operations, or PIN_TOGGLE, which sets the other of `0` and
`1` (R85, R93 to R96). -/
abbrev Instr.SetsPin (i : Instr) (p : Handle) (v : Signal) (pin : Machine.Pin) : Prop :=
  i.pinSets = some (p, v)
    ∨ (i = .pinToggle p ∧ ((pin.level = .low ∧ v = .high) ∨ (pin.level = .high ∧ v = .low)))

/-- `i` resolves trace `t`, whose record is `tr`, with `v` pending: one of the set operations, or TRACE_TOGGLE (R82, R99, R104
to R107). -/
abbrev Instr.SetsTrace (i : Instr) (t : Handle) (v : Signal) (tr : Machine.Trace) : Prop :=
  i.traceSets = some (t, v)
    ∨ (i = .traceToggle t ∧ ((tr.level = .low ∧ v = .high) ∨ (tr.level = .high ∧ v = .low)))

/-- The pin that an operation on an existing pin needs (R221, code 5). -/
def Instr.needsPin : Instr → Option Handle
  | .pinSetLevel p _ => some p
  | .pinSetMode p _ => some p
  | .pinPullUp p => some p
  | .pinPullDown p => some p
  | .pinNoPull p => some p
  | .pinAddListener p _ => some p
  | .pinGetLevel p => some p
  | .pinGetMode p => some p
  | .pinSet p => some p
  | .pinClear p => some p
  | .pinFloat p => some p
  | .pinToggle p => some p
  | .updateLevel p => some p
  | _ => none

/-- The trace that an operation on an existing trace needs (R221, code 6). -/
def Instr.needsTrace : Instr → Option Handle
  | .traceAddPin t _ => some t
  | .traceSetLevel t _ => some t
  | .traceGetLevel t => some t
  | .tracePullUp t => some t
  | .tracePullDown t => some t
  | .traceNoPull t => some t
  | .traceSet t => some t
  | .traceClear t => some t
  | .traceFloat t => some t
  | .traceToggle t => some t
  | .resolveAndPush t _ => some t
  | _ => none

/-- The access type of an ACC row (R68). -/
def Instr.accOf : Instr → Option AccessType
  | .accIdle => some .idle
  | .accRefresh => some .refresh
  | .accVideoMatrixColor => some .videoMatrixColor
  | .accBitmapChar => some .bitmapChar
  | .accSpritePointer n => some (.spritePointer n)
  | .accSpriteData n => some (.spriteData n)
  | .accCpuOwned => some .cpuOwned
  | _ => none

/-- The selector of a GMODE row (R69). -/
def Instr.gmodeOf : Instr → Option GModeWord
  | .gmode0 => some 0
  | .gmode1 => some 1
  | .gmode2 => some 2
  | .gmode3 => some 3
  | .gmode4 => some 4
  | .gmode5 => some 5
  | .gmode6 => some 6
  | .gmode7 => some 7
  | _ => none

/-- The command words of the pin and trace operations (R65). -/
def isSubstrateWord (w : CmdWord) : Bool := decide ((opOf w).toNat < 0x20)

/-- The pin and trace operations, internal ones included. -/
def Instr.onSubstrate (i : Instr) : Bool :=
  match encode i with
  | .cmd w => isSubstrateWord w
  | .internal _ => true
  | .slot _ => false
  | .acc _ => false
  | .gmode _ => false

end Sys2Proof

namespace Sys2Proof.Machine

/-- A computation answers a next state, and `P` holds of it. -/
abbrev Completes (r : Result) (P : State → Prop) : Prop := ∃ t, r = .next t ∧ P t

/-! ## The substrate -/

/-- Pin `p` exists and is on trace `t`. -/
def State.pinOn (s : State) (p t : Nat) : Bool :=
  match s.pins.find p with
  | some pin => pin.trace == some t
  | none => false

/-- The trace that pin `p` points at, if any, exists and has `p` as a member. -/
def State.pointsBack (s : State) (p : Nat) (t : Option Nat) : Bool :=
  match t with
  | none => true
  | some t =>
    match s.traces.find t with
    | some tr => decide (p ∈ tr.members)
    | none => false

/-- The arenas are canonical, the members of a trace are distinct pins that point at it, and a pin that points at a trace
is a member of it (R11, R13). -/
abbrev State.Wired (s : State) : Prop :=
  Arena.Sorted s.pins ∧ Arena.Sorted s.traces
    ∧ (∀ x ∈ s.traces, x.2.members.Nodup ∧ ∀ p ∈ x.2.members, s.pinOn p x.1 = true)
    ∧ ∀ x ∈ s.pins, s.pointsBack x.1 x.2.trace = true

/-- Every trace holds a level that a resolution gives (R13, R81): its drivers' when it has one, else its pending value's or
its pull's. -/
abbrev State.Resolved (s : State) : Prop := ∀ x ∈ s.traces, resolve s x.2 x.2.level = x.2.level

/-- Pin `p`, if Input-capable, has the level that it adopts from `v` (R14). -/
def State.pinSynced (s : State) (p : Nat) (v : Signal) : Bool :=
  match s.pins.find p with
  | some pin => !pin.mode.inCap || pin.level == adopt pin v
  | none => true

/-- The trace invariant (R14): every Input-capable member has adopted its trace's level. -/
abbrev State.Synced (s : State) : Prop := ∀ x ∈ s.traces, ∀ p ∈ x.2.members, s.pinSynced p x.2.level = true

/-- The block's own terminals exist (log 1). -/
abbrev State.HasTerminals (s : State) : Prop := ∀ b ∈ BlockPin.all, s.pins.has b.terminal = true

/-- The mode of the pin at a handle; Unconnected where there is none. -/
def State.pinMode (s : State) (p : Nat) : Mode :=
  match s.pins.find p with
  | some pin => pin.mode
  | none => .unconnected

/-- The trace that a pin is on. -/
def State.traceOf (s : State) (p : Nat) : Option Nat :=
  match s.pins.find p with
  | some pin => pin.trace
  | none => none

/-- The members of a trace; none where there is no trace. -/
def State.traceMembers (s : State) (t : Nat) : List Nat :=
  match s.traces.find t with
  | some tr => tr.members
  | none => []

/-- The listeners of a pin; none where there is no pin. -/
def State.pinListeners (s : State) (p : Nat) : List Nat :=
  match s.pins.find p with
  | some pin => pin.listeners
  | none => []

/-- The pins that a resolution of the trace of pin `p` pushes: the members of that trace, none where `p` is on no trace. -/
def State.pushedWith (s : State) (p : Nat) : List Nat :=
  match s.traceOf p with
  | some t => s.traceMembers t
  | none => []

/-- Every listener of the pins `ps` only records its call (log 3): a push into them issues no operation. -/
abbrev State.Records (s : State) (ps : List Nat) : Prop := ∀ p ∈ ps, ∀ l ∈ s.pinListeners p, s.behaviour l = none

/-- Trace `t` can be pushed: the listeners of its members only record, and one invocation is allowed (log 4). Of other pins
nothing is asked. -/
abbrev State.TraceRecords (s : State) (t : Nat) : Prop := 0 < s.env.fuel ∧ s.Records (s.traceMembers t)

/-- Pin `p` can be updated: its listeners only record, and one invocation is allowed (log 4). -/
abbrev State.PinRecords (s : State) (p : Nat) : Prop := 0 < s.env.fuel ∧ s.Records [p]

/-- The block's pins are thirty different pins with the modes of R27. -/
abbrev State.BlockPinsOk (s : State) : Prop :=
  (BlockPin.all.map s.blockHandle).Nodup ∧ ∀ b ∈ BlockPin.all, s.pinMode (s.blockHandle b) = b.mode

/-! ## The VIC block -/

/-- The coordinate is in range (R17). -/
abbrev Vic.CoordOk (v : Vic) : Prop := 1 ≤ v.cycle.toNat ∧ v.cycle.toNat ≤ 65 ∧ v.raster.toNat ≤ 262

/-- The counters' invariants (R192 corner case 3, R194, R203 corner case): idle implies `rc = 7`; `vmli <= 40`; display
implies DMA. -/
abbrev Vic.CountersOk (v : Vic) : Prop :=
  (v.idle = true → v.rc = 7) ∧ v.vmli.toNat ≤ 40 ∧ ∀ n : Fin 8, v.sprites[n].display = true → v.sprites[n].dma = true

/-- How many c-access slots have gone by since (14, phase 1) at a coordinate, 40 before that slot of the line (R194). -/
def cSlotsDone (ph : Phase) (c : BitVec 7) : Nat :=
  if c.toNat < 14 then 40
  else if c.toNat = 14 then 0
  else if c.toNat ≤ 54 then
    match ph with
    | .one => c.toNat - 15
    | .two => c.toNat - 14
  else 40

/-- `vmli` is at most the number of c-accesses that can have been made since (14, phase 1) (R145 corner case 2, R194). -/
abbrev Vic.CIndexOk (v : Vic) : Prop := v.vmli.toNat ≤ cSlotsDone v.phase v.cycle

/-! ## Invariants -/

/-- The invariant that every step keeps on every board. -/
structure State.Inv (s : State) : Prop where
  wired     : s.Wired
  resolved  : s.Resolved
  terminals : s.HasTerminals
  coord     : s.vic.CoordOk
  counters  : s.vic.CountersOk
  memory    : ∀ m, s.env.mem = some m → m.wf

/-- The address pins as block pins. -/
def addressBlockPins : List BlockPin := addressPins.map .a

/-- The block pins that a slot sets (R121, sub-steps 7 and 8). -/
def slotBlockPins : List BlockPin := [.ba, .aec] ++ addressBlockPins

/-- The block pins that a step can set (R121, R124). -/
def stepBlockPins : List BlockPin := [.ba, .aec, .irq] ++ addressBlockPins

/-- The block can set its pins `bs`: the board is wired, and the listeners of the members of the traces of those pins only
record. Listeners elsewhere, the one on PHI among them, may do anything. -/
structure State.Ready (s : State) (bs : List BlockPin) : Prop where
  wired     : s.Wired
  terminals : s.HasTerminals
  fuel      : 0 < s.env.fuel
  records   : ∀ b ∈ bs, s.Records (s.pushedWith (s.blockHandle b))

/-- A state from which a half-cycle step runs, by VIC_TICK or by an edge of PHI. -/
structure State.TickReady (s : State) : Prop where
  ready  : s.Ready stepBlockPins
  coord  : s.vic.CoordOk
  cIndex : s.vic.CIndexOk

/-! ## What a push does -/

/-- A pin after its trace `h` pushed `lvl` (R83). -/
def pushedPin (h : Nat) (lvl : Signal) (pin : Pin) : Pin :=
  if pin.trace = some h ∧ pin.mode.inCap = true then { pin with level := adopt pin lvl } else pin

/-- The calls that a push of `lvl` makes to the listeners of pin `p` (R83): once each, only when its level changes. -/
def pinCalls (s : State) (lvl : Signal) (p : Nat) : List Event :=
  match s.pins.find p with
  | some pin =>
    if pin.mode.inCap = true ∧ adopt pin lvl ≠ pin.level then
      pin.listeners.map (fun l => .invoked l p (adopt pin lvl))
    else []
  | none => []

/-- What a push into listeners that only record does not touch: the VIC block, the parameters and memory, the stimuli, the
free-value counter. -/
abbrev SameRest (s u : State) : Prop :=
  u.vic = s.vic ∧ u.env = s.env ∧ u.pending = s.pending ∧ u.freeCtr = s.freeCtr

/-- `u` is `s` after trace `h`, whose record was `tr`, took the level `lvl` and pushed it (R82, R83): the trace has the level;
every Input-capable pin on it has adopted it; the calls were made in membership order; all else is as it was. -/
structure Pushed (s u : State) (h : Nat) (tr : Trace) (lvl : Signal) : Prop where
  trace  : u.traces.find h = some { tr with level := lvl }
  traces : ∀ h', h' ≠ h → u.traces.find h' = s.traces.find h'
  pins   : ∀ p, u.pins.find p = (s.pins.find p).map (pushedPin h lvl)
  out    : u.out = (tr.members.flatMap (pinCalls s lvl)).reverse ++ s.out
  rest   : SameRest s u

/-! ## Boards whose listeners keep to the substrate (R25) -/

/-- A listener's program issues pin and trace operations only. -/
def ListenerProg.substrateOnly : ListenerProg → Bool
  | .done => true
  | .cmd w k => isSubstrateWord w && k.substrateOnly
  | .branch _ yes no => yes.substrateOnly && no.substrateOnly

/-- A behaviour that issues pin and trace operations only. -/
def Behaviour.substrateOnly : Behaviour → Bool
  | .vicStep => false
  | .prog b => b.substrateOnly

/-- No listener of the board runs the block or writes its registers. -/
abbrev State.SubstrateBoard (s : State) : Prop := ∀ x ∈ s.env.listeners, x.2.substrateOnly = true

/-! ## What statements say of pins, traces and outputs -/

/-- `u` is `s` after pin `p` took over the level `lvl` of its trace `h` (R83): one pin, and the calls to its listeners. -/
structure PinPushed (s u : State) (p h : Nat) (lvl : Signal) : Prop where
  pin    : u.pins.find p = (s.pins.find p).map (pushedPin h lvl)
  pins   : ∀ q, q ≠ p → u.pins.find q = s.pins.find q
  traces : u.traces = s.traces
  out    : u.out = (pinCalls s lvl p).reverse ++ s.out
  rest   : SameRest s u

/-- An active driver of a level (R80): Output mode, at that level. -/
abbrev ActivelyDrives (s : State) (p : Nat) (v : Signal) : Prop :=
  ∃ pin, s.pins.find p = some pin ∧ pin.mode = .output ∧ pin.level = v

/-- The level of a trace; a trace that is not there floats. -/
def State.traceLevel (s : State) (t : Nat) : Signal :=
  match s.traces.find t with
  | some tr => tr.level
  | none => .floating

/-- A listener invocation. -/
def Event.isCall : Event → Bool
  | .invoked _ _ _ => true
  | .access _ => false
  | .pinLevel _ _ => false
  | .pinMode _ _ => false
  | .traceLevel _ _ => false

/-- A listener invocation for pin `q`. -/
def Event.calledFor (q : Nat) : Event → Bool
  | .invoked _ p _ => p == q
  | .access _ => false
  | .pinLevel _ _ => false
  | .pinMode _ _ => false
  | .traceLevel _ _ => false

/-- Between `s` and `t` one access record was handed out, after nothing but listener invocations. -/
abbrev Handed (s t : State) (r : AccessRecord) : Prop :=
  ∃ calls : List Event, t.out = .access r :: calls ++ s.out ∧ ∀ e ∈ calls, e.isCall = true

/-- All of a pin but its level. -/
def Pin.static (pin : Pin) : Pin := { pin with level := .floating }

/-- All of a trace but its level. -/
def Trace.static (tr : Trace) : Trace := { tr with level := .floating }

/-- The pins and the traces are the same but for their levels. -/
abbrev SameWiring (s u : State) : Prop :=
  (∀ q, (u.pins.find q).map Pin.static = (s.pins.find q).map Pin.static)
    ∧ ∀ h, (u.traces.find h).map Trace.static = (s.traces.find h).map Trace.static

/-- What setting the pins `ps` cannot reach holds its level: every trace that none of them is on; and every other pin that is
not Input-capable, or is on no trace, or is on a trace that none of them is on. -/
abbrev HoldsBut (s u : State) (ps : List Nat) : Prop :=
  (∀ h, (∀ p ∈ ps, s.traceOf p ≠ some h) → u.traceLevel h = s.traceLevel h)
    ∧ ∀ q, q ∉ ps → ((s.pinMode q).inCap = false ∨ ∀ h, s.traceOf q = some h → ∀ p ∈ ps, s.traceOf p ≠ some h) →
      u.pinLevel q = s.pinLevel q

/-- The same for the block pins `bs`, at the handles where they stand. -/
abbrev HoldsOthers (s u : State) (bs : List BlockPin) : Prop := HoldsBut s u (bs.map s.blockHandle)

/-- The memory behind the bus, where the board has one, at one address. -/
def State.memAt (s : State) (a : BitVec 14) : Option (BitVec 12) := s.env.mem.map (fun m => m.read a)

/-! ## The spec's tables, in numbers -/

/-- The slot map (R67), for a cycle of 1 to 65. -/
def specSlot (ph : Phase) (c : Nat) (badLine : Bool) (dma : Fin 8 → Bool) : AccessType :=
  match ph with
  | .one =>
    match c with
    | 2 => .spritePointer 3
    | 3 => if dma 3 then .spriteData 3 else .idle
    | 4 => .spritePointer 4
    | 5 => if dma 4 then .spriteData 4 else .idle
    | 6 => .spritePointer 5
    | 7 => if dma 5 then .spriteData 5 else .idle
    | 8 => .spritePointer 6
    | 9 => if dma 6 then .spriteData 6 else .idle
    | 10 => .spritePointer 7
    | 60 => .spritePointer 0
    | 61 => if dma 0 then .spriteData 0 else .idle
    | 62 => .spritePointer 1
    | 63 => if dma 1 then .spriteData 1 else .idle
    | 64 => .spritePointer 2
    | 65 => if dma 2 then .spriteData 2 else .idle
    | c => if 11 ≤ c ∧ c ≤ 15 then .refresh else if 16 ≤ c ∧ c ≤ 55 then .bitmapChar else .idle
  | .two =>
    match c with
    | 2 => if dma 3 then .spriteData 3 else .cpuOwned
    | 4 => if dma 4 then .spriteData 4 else .cpuOwned
    | 6 => if dma 5 then .spriteData 5 else .cpuOwned
    | 8 => if dma 6 then .spriteData 6 else .cpuOwned
    | 10 => if dma 7 then .spriteData 7 else .cpuOwned
    | 60 => if dma 0 then .spriteData 0 else .cpuOwned
    | 62 => if dma 1 then .spriteData 1 else .cpuOwned
    | 64 => if dma 2 then .spriteData 2 else .cpuOwned
    | c => if 15 ≤ c ∧ c ≤ 54 ∧ badLine then .videoMatrixColor else .cpuOwned

/-- The half-cycles in which a sprite in DMA holds BA low (R180, the table), by cycle and phase. -/
def specBaWindow (n : Fin 8) (ph : Phase) (c : Nat) : Bool :=
  match n with
  | 0 => decide (57 ≤ c ∧ c ≤ 60) || decide (c = 61 ∧ ph = .one)
  | 1 => decide (59 ≤ c ∧ c ≤ 62) || decide (c = 63 ∧ ph = .one)
  | 2 => decide (61 ≤ c ∧ c ≤ 64) || decide (c = 65 ∧ ph = .one)
  | 3 => decide (64 ≤ c ∧ c ≤ 65) || decide (1 ≤ c ∧ c ≤ 2) || decide (c = 3 ∧ ph = .one)
  | 4 => decide (1 ≤ c ∧ c ≤ 4) || decide (c = 5 ∧ ph = .one)
  | 5 => decide (3 ≤ c ∧ c ≤ 6) || decide (c = 7 ∧ ph = .one)
  | 6 => decide (5 ≤ c ∧ c ≤ 8) || decide (c = 9 ∧ ph = .one)
  | 7 => decide (7 ≤ c ∧ c ≤ 10)

/-- BA is low in a half-cycle (R180). -/
abbrev SpecBaLow (ph : Phase) (c : Nat) (badLine : Bool) (dma : Fin 8 → Bool) : Prop :=
  (badLine = true ∧ 12 ≤ c ∧ c ≤ 54) ∨ ∃ n, dma n = true ∧ specBaWindow n ph c = true

/-- The idle address (R143). -/
def specIdleAddr (r : Regs) : Nat := if r.ecm then 0x39FF else 0x3FFF

/-- `TextAddr` (R161). -/
def specTextAddr (v : Vic) (byte : Nat) : Nat := v.regs.cb.toNat * 2048 + byte * 8 + v.rc.toNat

/-- `BmpAddr` (R161). -/
def specBmpAddr (v : Vic) (col : Nat) : Nat :=
  v.regs.cb.toNat / 4 * 8192 + (v.vcbase.toNat + col) % 1024 * 8 + v.rc.toNat

/-- The g-access address under the flags `ecm` and `bmm` (R147 to R154; `mcm` plays no part). -/
def specGAddr (ecm bmm : Bool) (v : Vic) (byte col : Nat) : Nat :=
  (if bmm then specBmpAddr v col else specTextAddr v byte) &&& (if ecm then 0x39FF else 0x3FFF)

/-- The byte of the line-cache entry of a column (R146). -/
def Vic.cacheByte (v : Vic) (col : Nat) : Nat := (v.lineCache[col]?.getD 0).toNat % 256

/-- The address of an access (R143 to R156) from the block's state before it, at cycle `c`. -/
def specAddr (v : Vic) (c : Nat) : AccessType → Option Nat
  | .idle => some (specIdleAddr v.regs)
  | .refresh => some (0x3F00 + v.ref.toNat)
  | .videoMatrixColor => some (v.regs.vm.toNat * 1024 + v.vc.toNat)
  | .bitmapChar =>
    some (if v.idle then specIdleAddr v.regs
      else specGAddr v.regs.ecm v.regs.bmm v (v.cacheByte (c - 16)) (c - 16))
  | .spritePointer n => some (v.regs.vm.toNat * 1024 + 0x3F8 + n.val)
  | .spriteData n => some ((v.sprPtr.toNat * 64 ||| v.sprites[n].mc.toNat) % 16384)
  | .cpuOwned => none

/-- The blank flag of an access (R159): a g-access in display state with `sel` 5, 6 or 7, that is `ecm` with `bmm` or
`mcm`. -/
def specBlank (v : Vic) (acc : AccessType) : Bool :=
  decide (acc = .bitmapChar) && !v.idle && v.regs.ecm && (v.regs.bmm || v.regs.mcm)

/-- `w` is `v` after the side effect of an access that read `data` (R144, R145, R155, R156; R160: nothing else). -/
def AccessEffect (v w : Vic) (acc : AccessType) (data : BitVec 12) : Prop :=
  match acc with
  | .idle => w = v
  | .bitmapChar => w = v
  | .cpuOwned => w = v
  | .refresh => w = { v with ref := if v.ref = 0 then 255 else v.ref - 1 }
  | .videoMatrixColor =>
    (∀ k : Fin 40, w.lineCache[k] = if k.val = v.vmli.toNat then data else v.lineCache[k])
      ∧ w = { v with
          lineCache := w.lineCache
          vc := if v.idle then v.vc else v.vc + 1
          vmli := if v.idle then v.vmli else v.vmli + 1 }
  | .spritePointer _ => w = { v with sprPtr := data.setWidth 8 }
  | .spriteData n =>
    (∀ k : Fin 8, w.sprites[k] = if k = n then { v.sprites[k] with mc := v.sprites[k].mc + 1 } else v.sprites[k])
      ∧ w = { v with sprites := w.sprites }

/-- What the address pins show for an address; `Z` for none (R41, R157, R158). -/
abbrev ShowsAddress (u : State) (addr : Option (BitVec 14)) : Prop :=
  ∀ i : Fin 14, u.blockLevel (.a i) =
    match addr with
    | some a => if a.toNat.testBit i.val then .high else .low
    | none => .floating

/-- The linear half-cycle index within a frame, 0 to 34189 (R17). -/
def Vic.frameIndex (v : Vic) : Nat := 130 * v.raster.toNat + 2 * (v.cycle.toNat - 1) + (Phase.number v.phase - 1)

/-- An instruction `n` times in a row. -/
def times (i : Instr) : Nat → State → Result
  | 0, s => .next s
  | n + 1, s => andThen (exec i s) (times i n)

/-- The step from `s` changes the raster (R122). -/
abbrev Vic.EndsLine (v : Vic) : Prop := v.phase = .two ∧ v.cycle.toNat = 65

/-- A state stands in a slot of phase 1 at a cycle. -/
abbrev Vic.InSlot1 (v : Vic) (c : Nat) : Prop := v.phase = .one ∧ v.cycle.toNat = c

/-! ## One resolution and one listener -/

/-- From `s`, instruction `i` is one resolution of trace `t` with `v` pending, made in the state `u`: `s` itself for an operation
on the trace; `s` with the pin's new level for a set of an output-capable pin on it (R85, R96, R99, R104 to R107). -/
def State.Resolves (s : State) (i : Instr) (t : Nat) (v : Signal) (u : State) : Prop :=
  (∃ h tr, h.toNat = t ∧ s.traces.find t = some tr ∧ i.SetsTrace h v tr ∧ u = s)
    ∨ ∃ p pin w, s.pins.find p.toNat = some pin ∧ pin.mode.outCap = true ∧ pin.trace = some t ∧ i.SetsPin p w pin
      ∧ v = (if pin.mode = .bidirectional then w else .floating) ∧ u = s.setPin p.toNat { pin with level := w }

/-- The pin exists and does not observe its trace (R14). -/
def State.blind (s : State) (q : Nat) : Bool :=
  match s.pins.find q with
  | some pin => !pin.mode.inCap
  | none => false

/-- The Input pin `p` is the last member of trace `t` and the only one that observes it, as PHI is on the clock trace of program
P5. -/
def SoleObserver (s : State) (t p : Nat) (tr : Trace) (pin : Pin) : Prop :=
  s.traces.find t = some tr ∧ (∃ others, tr.members = others ++ [p] ∧ ∀ q ∈ others, s.blind q = true)
    ∧ s.pins.find p = some pin ∧ pin.mode = .input ∧ pin.trace = some t

/-- The states that the statements about one listener are made in: `p` is the sole observer of `t` and has the one listener
`l`, and `n + 1` nested invocations are allowed. -/
def OneListener (s : State) (t p l n : Nat) (tr : Trace) (pin : Pin) : Prop :=
  s.env.fuel = n + 1 ∧ SoleObserver s t p tr pin ∧ pin.listeners = [l]

/-- The state in which that listener runs: the trace and the pin have the new level, and the call has been handed out. -/
def State.calling (s : State) (t p l : Nat) (tr : Trace) (pin : Pin) (v : Signal) : State :=
  ((s.setTrace t { tr with level := resolve s tr v }).setPin p { pin with level := adopt pin (resolve s tr v) }).emit
    (.invoked l p (adopt pin (resolve s tr v)))

/-- A board clocked as in program P5: the Output pin `q` drives the clock trace `t`, on which `p` is the sole observer; `p` has
the block's STEP as its one listener (R120, R242); the board is ready for a step; one more invocation is allowed inside it. -/
structure State.PhiBoard (s : State) (q : Handle) (t p l : Nat) : Prop where
  ready : s.TickReady
  fuel  : 2 ≤ s.env.fuel
  step  : s.behaviour l = some .vicStep
  clock : ∃ tr src pin, SoleObserver s t p tr pin ∧ pin.listeners = [l] ∧ tr.members = [q.toNat, p]
            ∧ s.pins.find q.toNat = some src ∧ src.mode = .output ∧ src.trace = some t
            ∧ src.level = tr.level ∧ pin.level = tr.level ∧ tr.level ≠ .floating

end Sys2Proof.Machine
end

