-- ==== Sys2Proof/Certificates/Slice0/Obligations.lean ====
section
/-! DEFINITION. The statements about the model. Each is made from the numbered rules of spec/ that its docstring names; a clause
that rests on the model's own choice names its log entry. -/
open Sys2Proof Sys2Proof.Machine

/-! ## Encoding (30_encoding) -/

/-- R60 to R69: every instruction, at every value of every operand, is read back from its own word. -/
def Obligations.DecodeOfEncodeGivesTheInstruction : Prop := ∀ i : Instr, decode (encode i) = .ok i

/-- R64, R66 to R69: a slot, access-type or selector word that decodes is the word of the instruction it decodes to; a
command word that decodes, at the interface or at the internal port, differs from that instruction's word only in bits the
operation does not use, which are read as if they were zero: they never change the operation or an operand. (That the two
internal operations of R65 have a port of their own: log 12.) -/
def Obligations.EachWordHasOneMeaning : Prop :=
  (∀ w i, decodeSlot w = .ok i → encode i = .slot w)
  ∧ (∀ w i, decodeAcc w = .ok i → encode i = .acc w)
  ∧ (∀ w, encode (decodeGMode w) = .gmode w)
  ∧ (∀ w i, decodeCmd w = .ok i →
      ∃ w', encode i = .cmd w' ∧ opOf w' = opOf w ∧ w' &&& w = w' ∧ decodeCmd w' = .ok i)
  ∧ (∀ w i, decodeInternal w = .ok i →
      ∃ w', encode i = .internal w' ∧ opOf w' = opOf w ∧ w' &&& w = w' ∧ decodeInternal w' = .ok i)

/-- R71, R221 codes 1, 3, 4, 8, 9: a word that the decoder refuses, presented to the machine, is the contract violation of its
code, whatever the state (R225: decode checks come first). A word of the internal port whose pending value is `11` is code 1
(R221, internal pending values). Two things here are the model's choice: R225 leaves the order of codes 1 and 4 open, and a
0xF1 word presented at the interface whose Signal field is `11` is code 4 (log 13); a word of another opcode at the internal
port, which the spec does not have, is code 3 (log 12). -/
def Obligations.IllegalWordsAreContractViolations : Prop :=
  ∀ (s : State) (rest : List Fetch),
    (∀ w, (opOf w).toNat ∉ [1, 2, 3, 4, 5, 6, 7, 8, 9, 10, 11, 12, 13, 16, 17, 18, 19, 20, 21, 22, 26, 27, 28, 29, 32, 33,
        34, 35, 36, 0xF0, 0xF1] →
      step { s with pending := .cmd w :: rest } = violate (.unknownOpcode w))
    ∧ (∀ w, (opOf w).toNat = 0xF0 ∨ (opOf w).toNat = 0xF1 →
      step { s with pending := .cmd w :: rest } = violate (.internalOpcode w))
    ∧ (∀ w, (opOf w).toNat = 2 ∨ (opOf w).toNat = 18 → w.toNat % 4 = 3 →
      step { s with pending := .cmd w :: rest } = violate (.reservedSignal w))
    ∧ (∀ w : SlotWord, w.toNat % 128 = 0 ∨ 65 < w.toNat % 128 →
      step { s with pending := .slot w :: rest } = violate (.badSlot w))
    ∧ (∀ w : AccWord, w.toNat / 8 = 7 ∨ (w.toNat / 8 ≠ 4 ∧ w.toNat / 8 ≠ 5 ∧ w.toNat % 8 ≠ 0) →
      step { s with pending := .acc w :: rest } = violate (.badAccessType w))
    ∧ (∀ w, (opOf w).toNat = 0xF1 → w.toNat % 4 = 3 →
      step { s with pending := .internal w :: rest } = violate (.reservedSignal w))
    ∧ (∀ w, (opOf w).toNat ≠ 0xF0 → (opOf w).toNat ≠ 0xF1 →
      step { s with pending := .internal w :: rest } = violate (.unknownOpcode w))

/-- Words written out from the tables of R64 to R69 (95_test_vectors V8, V13) decode to what the tables say. -/
def Obligations.WordsOfTheSpecDecode : Prop :=
  decodeTableWord 32 0x01005002 = some (.pinNew 5 .output)
  ∧ decodeTableWord 32 0x02005001 = some (.pinSetLevel 5 .high)
  ∧ decodeTableWord 32 0x07005009 = some (.pinAddListener 5 9)
  ∧ decodeTableWord 32 0x11003005 = some (.traceAddPin 3 5)
  ∧ decodeTableWord 32 0x20000000 = some .vicTick
  ∧ decodeTableWord 32 0x21013064 = some (.vicSetField 0x13 100)
  ∧ decodeTableWord 32 0x23000105 = some (.vicWriteRasterCompare 0x105)
  ∧ decodeTableWord 32 0xF1003002 = some (.resolveAndPush 3 .floating)
  ∧ decodeTableWord 8 0x02 = some .slotP1C02
  ∧ decodeTableWord 8 0x94 = some .slotP2C20
  ∧ decodeTableWord 6 0b100100 = some (.accSpritePointer 4)
  ∧ decodeTableWord 6 0b110000 = some .accCpuOwned
  ∧ decodeTableWord 3 0b010 = some .gmode2

/-- Log 6, log 12 (the model's choice of how stimuli are presented): the oldest pending stimulus is taken, decoded and run as
`exec` of its instruction; with none pending the machine waits unchanged; a word placed by `withFetchWord` is the next. -/
def Obligations.StepRunsTheDecodedInstruction : Prop :=
  (∀ (s : State) (f : Fetch) (rest : List Fetch) (i : Instr), s.pending = f :: rest → decode f = .ok i →
      step s = exec i { s with pending := rest })
  ∧ (∀ s : State, s.pending = [] → step s = .next s)
  ∧ (∀ (s : State) (nbits w : Nat) (i : Instr), decodeTableWord nbits w = some i →
      step (s.withFetchWord nbits w) = exec i s)

/-! ## The pin operations (40_substrate_pin_trace section 2) -/

/-- R84, R29 (the diagnostic identity of a handle with none in the wiring is the model's choice, log 17). -/
def Obligations.PinNewCreatesAPin : Prop :=
  ∀ (s : State) (p : Handle) (m : Mode),
    (s.pins.has p.toNat = true → exec (.pinNew p m) s = violate (.noSuchPin p.toNat))
    ∧ (s.pins.has p.toNat = false →
        Completes (exec (.pinNew p m) s) fun t =>
          (∃ pin, t.pins.find p.toNat = some pin ∧ pin.mode = m ∧ pin.pull = .none ∧ pin.level = .floating
            ∧ pin.trace = none ∧ pin.listeners = []
            ∧ ∀ ident, Arena.find s.env.wiring.idents p.toNat = some ident →
                pin.number = ident.number ∧ pin.name = ident.name)
          ∧ (∀ q, q ≠ p.toNat → t.pins.find q = s.pins.find q)
          ∧ t = { s with pins := t.pins })

/-- R85, R93 to R96: PIN_SET_LEVEL, its three short forms, and PIN_TOGGLE, which sets the other of `0` and `1` and leaves `Z`
alone with no resolution. A pin that cannot drive is left alone; a pin with no trace stores the level; else one resolution of
the trace with the pending value that R85 gives, and its push, said of traces whose listeners record (other listeners may do
anything). -/
def Obligations.PinSetsAndTogglesDriveTheTrace : Prop :=
  ∀ (s : State) (i : Instr) (p : Handle) (v : Signal) (pin : Pin), s.pins.find p.toNat = some pin →
    (i = .pinToggle p → pin.level = .floating → exec i s = .next s)
    ∧ (i.SetsPin p v pin →
        (pin.mode = .unconnected ∨ pin.mode = .input → exec i s = .next s)
        ∧ (pin.mode = .output ∨ pin.mode = .bidirectional →
            (pin.trace = none → exec i s = .next (s.setPin p.toNat { pin with level := v }))
            ∧ (∀ h tr, s.Wired → s.TraceRecords h → pin.trace = some h → s.traces.find h = some tr →
                Completes (exec i s) fun t =>
                  Pushed (s.setPin p.toNat { pin with level := v }) t h tr
                    (resolve (s.setPin p.toNat { pin with level := v }) tr
                      (if pin.mode = .bidirectional then v else .floating)))))

/-- R86: the four cases of PIN_SET_MODE, on traces whose listeners record. -/
def Obligations.PinSetModeTakesOneOfFourBranches : Prop :=
  ∀ (s : State) (p : Handle) (m : Mode) (pin : Pin), s.pins.find p.toNat = some pin →
    (m = pin.mode → exec (.pinSetMode p m) s = .next s)
    ∧ (m ≠ pin.mode → pin.trace = none →
        exec (.pinSetMode p m) s = .next (s.setPin p.toNat { pin with mode := m }))
    ∧ (∀ h tr, s.Wired → s.TraceRecords h → m ≠ pin.mode → pin.trace = some h → s.traces.find h = some tr →
        (m.outCap = true → Completes (exec (.pinSetMode p m) s) fun t =>
          Pushed (s.setPin p.toNat { pin with mode := m }) t h tr
            (resolve (s.setPin p.toNat { pin with mode := m }) tr
              (if m = .bidirectional then pin.level else .floating)))
        ∧ (m.outCap = false → pin.mode.outCap = true → pin.level ≠ .floating →
            Completes (exec (.pinSetMode p m) s) fun t =>
              Pushed (s.setPin p.toNat { pin with mode := m }) t h tr
                (resolve (s.setPin p.toNat { pin with mode := m }) tr .floating))
        ∧ (m.outCap = false → pin.mode.outCap = false ∨ pin.level = .floating →
            Completes (exec (.pinSetMode p m) s) fun t =>
              PinPushed (s.setPin p.toNat { pin with mode := m }) t p.toNat h tr.level))

/-- R87 to R89: the setting is stored; a pin on a trace is synchronised with it, and nothing else on the board changes, where
the pin's own listeners record. -/
def Obligations.PinPullsStoreAndSynchronise : Prop :=
  ∀ (s : State) (i : Instr) (p : Handle) (pull : Pull) (pin : Pin),
    i.pinPulls = some (p, pull) → s.pins.find p.toNat = some pin →
    (pin.trace = none → exec i s = .next (s.setPin p.toNat { pin with pull := pull }))
    ∧ (∀ h tr, s.Wired → s.PinRecords p.toNat → pin.trace = some h → s.traces.find h = some tr →
        Completes (exec i s) fun t =>
          PinPushed (s.setPin p.toNat { pin with pull := pull }) t p.toNat h tr.level)

/-- R90: the listener is appended and nothing is invoked. -/
def Obligations.PinAddListenerAppends : Prop :=
  ∀ (s : State) (p l : Handle) (pin : Pin), s.pins.find p.toNat = some pin →
    exec (.pinAddListener p l) s
      = .next (s.setPin p.toNat { pin with listeners := pin.listeners ++ [l.toNat] })

/-- R91, R92, R100: the three reads hand out what they read and change nothing else (where it is handed out is log 7). -/
def Obligations.GetsArePure : Prop :=
  ∀ s : State,
    (∀ (p : Handle) (pin : Pin), s.pins.find p.toNat = some pin →
      exec (.pinGetLevel p) s = .next { s with out := .pinLevel p.toNat pin.level :: s.out }
      ∧ exec (.pinGetMode p) s = .next { s with out := .pinMode p.toNat pin.mode :: s.out })
    ∧ (∀ (t : Handle) (tr : Trace), s.traces.find t.toNat = some tr →
      exec (.traceGetLevel t) s = .next { s with out := .traceLevel t.toNat tr.level :: s.out })

/-! ## The trace operations (40_substrate_pin_trace section 3) -/

/-- R97: a new trace has no members, no pull and floats; an existing handle is code 6. -/
def Obligations.TraceNewCreatesATrace : Prop :=
  ∀ (s : State) (t : Handle),
    (s.traces.has t.toNat = true → exec (.traceNew t) s = violate (.noSuchTrace t.toNat))
    ∧ (s.traces.has t.toNat = false →
        Completes (exec (.traceNew t) s) fun u =>
          u.traces.find t.toNat = some { members := [], pull := .none, level := .floating }
          ∧ (∀ h, h ≠ t.toNat → u.traces.find h = s.traces.find h)
          ∧ u = { s with traces := u.traces })

/-- R98: a member stays where it is; a pin on another trace is code 10; else the pin is appended and joins as if it entered its
mode there, where the listeners that this calls record. -/
def Obligations.TraceAddPinJoins : Prop :=
  ∀ (s : State) (t p : Handle) (tr : Trace) (pin : Pin),
    s.traces.find t.toNat = some tr → s.pins.find p.toNat = some pin →
    (p.toNat ∈ tr.members → exec (.traceAddPin t p) s = .next s)
    ∧ (∀ h, p.toNat ∉ tr.members → pin.trace = some h → h ≠ t.toNat →
        exec (.traceAddPin t p) s = violate (.pinAlreadyOnTrace p.toNat))
    ∧ (s.Wired → s.PinRecords p.toNat → pin.trace = none →
        let joined := (s.setTrace t.toNat { tr with members := tr.members ++ [p.toNat] }).setPin p.toNat
          { pin with trace := some t.toNat }
        (pin.mode.outCap = true → s.TraceRecords t.toNat → Completes (exec (.traceAddPin t p) s) fun u =>
          Pushed joined u t.toNat { tr with members := tr.members ++ [p.toNat] }
            (resolve joined { tr with members := tr.members ++ [p.toNat] }
              (if pin.mode = .bidirectional then pin.level else .floating)))
        ∧ (pin.mode.outCap = false → Completes (exec (.traceAddPin t p) s) fun u =>
            PinPushed joined u p.toNat t.toNat tr.level))

/-- R82, R99, R104 to R107: a direct set resolves the trace with that value pending, and pushes; TRACE_TOGGLE sets the other of
`0` and `1` and leaves `Z` alone; on traces whose listeners record. -/
def Obligations.TraceSetsAndTogglesResolveAndPush : Prop :=
  ∀ (s : State) (i : Instr) (t : Handle) (v : Signal) (tr : Trace), s.traces.find t.toNat = some tr →
    (i = .traceToggle t → tr.level = .floating → exec i s = .next s)
    ∧ (s.Wired → s.TraceRecords t.toNat → i.SetsTrace t v tr →
        Completes (exec i s) fun u => Pushed s u t.toNat tr (resolve s tr v))

/-- R101 to R103: the setting is stored and the trace re-resolved with nothing pending, where its listeners record. -/
def Obligations.TracePullsResolve : Prop :=
  ∀ (s : State) (i : Instr) (t : Handle) (pull : Pull) (tr : Trace),
    s.Wired → s.TraceRecords t.toNat → i.tracePulls = some (t, pull) → s.traces.find t.toNat = some tr →
    Completes (exec i s) fun u =>
      Pushed (s.setTrace t.toNat { tr with pull := pull }) u t.toNat { tr with pull := pull }
        (resolve s { tr with pull := pull } .floating)

/-- R83: UPDATE_LEVEL does nothing to a pin that does not observe, or that is on no trace; any other takes its trace's level,
and its listeners, which record, are called once each, only if the level changed. -/
def Obligations.UpdateLevelSynchronisesOnePin : Prop :=
  ∀ (s : State) (p : Handle) (pin : Pin), s.pins.find p.toNat = some pin →
    (pin.mode.inCap = false ∨ pin.trace = none → exec (.updateLevel p) s = .next s)
    ∧ (∀ h tr, s.Wired → s.PinRecords p.toNat → pin.mode.inCap = true → pin.trace = some h → s.traces.find h = some tr →
        Completes (exec (.updateLevel p) s) fun t => PinPushed s t p.toNat h tr.level)

/-- R221 codes 5 and 6, R225: on every board an operation whose pin or trace is not there is that contract violation
(for the two internal operations log 15; that TRACE_ADD_PIN checks its trace first is log 13). -/
def Obligations.UnknownHandlesAreContractViolations : Prop :=
  ∀ (s : State) (i : Instr),
    (∀ p, i.needsPin = some p → s.pins.has p.toNat = false → exec i s = violate (.noSuchPin p.toNat))
    ∧ (∀ t, i.needsTrace = some t → s.traces.has t.toNat = false → exec i s = violate (.noSuchTrace t.toNat))
    ∧ (∀ t p, i = .traceAddPin t p → s.traces.has t.toNat = true → s.pins.has p.toNat = false →
        exec i s = violate (.noSuchPin p.toNat))

/-! ## The resolution rule (40_substrate_pin_trace section 1) -/

/-- R80, R81, R110: any driven `1` wins, else any driven `0`, else the pending value, else the trace's pull; neither the trace's
previous level nor the membership order plays a part. -/
def Obligations.ResolutionRule : Prop :=
  ∀ (s : State) (tr : Trace) (pending : Signal),
    ((∃ p ∈ tr.members, ActivelyDrives s p .high) → resolve s tr pending = .high)
    ∧ ((¬∃ p ∈ tr.members, ActivelyDrives s p .high) → (∃ p ∈ tr.members, ActivelyDrives s p .low) →
        resolve s tr pending = .low)
    ∧ ((¬∃ p ∈ tr.members, ActivelyDrives s p .high) → (¬∃ p ∈ tr.members, ActivelyDrives s p .low) →
        (pending ≠ .floating → resolve s tr pending = pending)
        ∧ (pending = .floating → tr.pull = .up → resolve s tr pending = .high)
        ∧ (pending = .floating → tr.pull = .down → resolve s tr pending = .low)
        ∧ (pending = .floating → tr.pull = .none → resolve s tr pending = .floating))
    ∧ (∀ tr' : Trace, tr'.members.Perm tr.members → tr'.pull = tr.pull → resolve s tr' pending = resolve s tr pending)

/-- R112: what an Output pin writes is read back through an Input pin of the trace; that pin's listeners are called once each,
and only for a change; the same write again changes nothing at all. Said of a trace whose listeners record. -/
def Obligations.WriteIsReadBackThroughTheTrace : Prop :=
  ∀ (s : State) (p q : Handle) (h : Nat) (tr : Trace) (pin qpin : Pin) (v : Signal),
    s.Wired → s.TraceRecords h → s.traces.find h = some tr →
    s.pins.find p.toNat = some pin → pin.mode = .output → pin.trace = some h →
    s.pins.find q.toNat = some qpin → qpin.mode = .input → qpin.trace = some h →
    (∀ r ∈ tr.members, r ≠ p.toNat → ∀ w, w ≠ .floating → ActivelyDrives s r w → w = v) →
    (v = .floating → tr.pull = .none ∧ qpin.pull = .none) →
    Completes (exec (.pinSetLevel p v) s) fun t =>
      t.traceLevel h = v ∧ t.pinLevel q.toNat = v
      ∧ (∃ calls, t.out = calls ++ s.out ∧ (calls.filter (Event.calledFor q.toNat)).reverse =
          if qpin.level = v then [] else qpin.listeners.map (fun l => .invoked l q.toNat v))
      ∧ exec (.pinSetLevel p v) t = .next t

/-! ## Listeners (40_substrate_pin_trace section 4) -/

/-- R120, R127: a level change of the PHI pin runs one STEP, the same that VIC_TICK runs, whether an operation on the clock trace
or a set of a pin that drives it makes the change; a push that changes no level runs none. (That the block's listener is data
of the environment is log 3.) -/
def Obligations.PhiChangeRunsOneStep : Prop :=
  (∀ (s : State) (i : Instr) (t p l n : Nat) (tr : Trace) (pin : Pin) (v : Signal) (u : State),
    s.Resolves i t v u → OneListener u t p l n tr pin → u.behaviour l = some .vicStep →
    (adopt pin (resolve u tr v) ≠ pin.level → exec i s = vicStep (invoke n) (u.calling t p l tr pin v))
    ∧ (adopt pin (resolve u tr v) = pin.level →
      exec i s = .next (u.setTrace t { tr with level := resolve u tr v })))
  ∧ (∀ s : State, exec .vicTick s = vicStep (invoke s.env.fuel) s)

/-- R108, R225 (3): an operation that a listener issues runs at the point of the call, inside the push that called it, and is the
operation that the same word is at the interface; a contract violation in it ends the whole stimulus. (Listeners as data: log
3; `runCommand` at the depth of the call is `exec` with that many invocations left: log 4.) -/
def Obligations.ListenerOperationsRunInsideThePush : Prop :=
  (∀ (s : State) (i : Instr) (t p l n : Nat) (tr : Trace) (pin : Pin) (v : Signal) (u : State) (w : CmdWord)
    (k : ListenerProg),
    s.Resolves i t v u → OneListener u t p l n tr pin → u.behaviour l = some (.prog (.cmd w k)) →
    adopt pin (resolve u tr v) ≠ pin.level →
    (∀ j, decodeCmd w = .ok j →
      exec i s = andThen (runCommand (invoke n) j (u.calling t p l tr pin v)) (runProg (invoke n) p k))
    ∧ (∀ e, decodeCmd w = .error e → exec i s = violate e))
  ∧ (∀ (s : State) (j : Instr), j.atInterface = true → runCommand s.invoker j s = exec j s)
  ∧ (∀ w j, decodeCmd w = .ok j → j.atInterface = true)

/-- R109, R222: with no nested invocation left, a push that must call a listener never returns: it is a hang, and neither a
final state nor a contract violation (FUEL is log 4). -/
def Obligations.FuelExhaustionIsAHang : Prop :=
  ∀ (s : State) (i : Instr) (t p : Nat) (tr : Trace) (pin : Pin) (v : Signal) (u : State),
    s.Resolves i t v u → s.env.fuel = 0 → SoleObserver u t p tr pin → pin.listeners ≠ [] →
    adopt pin (resolve u tr v) ≠ pin.level → exec i s = .fault .hang

/-! ## The clock model (41_clock_model) -/

/-- R122: the coordinate advance. -/
def Obligations.TickAdvancesTheCoordinate : Prop :=
  ∀ s : State, s.TickReady → Completes (exec .vicTick s) fun t =>
    (s.vic.phase = .one → t.vic.phase = .two ∧ t.vic.cycle = s.vic.cycle ∧ t.vic.raster = s.vic.raster)
    ∧ (s.vic.phase = .two → t.vic.phase = .one
        ∧ (s.vic.cycle.toNat = 65 → t.vic.cycle.toNat = 1
            ∧ t.vic.raster.toNat = if s.vic.raster.toNat = 262 then 0 else s.vic.raster.toNat + 1)
        ∧ (s.vic.cycle.toNat ≠ 65 → t.vic.cycle.toNat = s.vic.cycle.toNat + 1 ∧ t.vic.raster = s.vic.raster))

/-- R122 (which steps change the raster), R123 (publication), R124 (the compare with the latch and the request), R223 (the IRQ
pin): on the steps that change the raster, and on no other, it is published and compared; a match with the enable bit set marks
the request and drives IRQ `0`; nothing else of a step touches either. -/
def Obligations.RasterChangePublishesAndCompares : Prop :=
  ∀ s : State, s.TickReady → Completes (exec .vicTick s) fun t =>
    (s.vic.EndsLine → t.vic.rasterLow.toNat = t.vic.raster.toNat % 256
      ∧ t.vic.rasterHigh = decide (256 ≤ t.vic.raster.toNat))
    ∧ (¬s.vic.EndsLine → t.vic.rasterLow = s.vic.rasterLow ∧ t.vic.rasterHigh = s.vic.rasterHigh)
    ∧ (s.vic.EndsLine ∧ t.vic.raster = s.vic.rasterLatch ∧ s.vic.regs.irqEnableRaster = true →
      t.vic.irqRequestRaster = true ∧ (s.BlockPinsOk → t.blockLevel .irq = .low))
    ∧ (¬(s.vic.EndsLine ∧ t.vic.raster = s.vic.rasterLatch ∧ s.vic.regs.irqEnableRaster = true) →
      t.vic.irqRequestRaster = s.vic.irqRequestRaster ∧ (s.BlockPinsOk → t.blockLevel .irq = s.blockLevel .irq))

/-- R125 (the sampling line 0x30 is the spec's decision D22, log 18): `den` is sampled at the step that enters it. -/
def Obligations.DisplayEnableIsSampledOncePerFrame : Prop :=
  ∀ s : State, s.TickReady → Completes (exec .vicTick s) fun t =>
    (s.vic.EndsLine ∧ t.vic.raster.toNat = 0x30 → t.vic.den = s.vic.regs.denBit)
    ∧ (¬(s.vic.EndsLine ∧ t.vic.raster.toNat = 0x30) → t.vic.den = s.vic.den)

/-- R126: the bad-line predicate, recomputed on every step. -/
def Obligations.BadLinePredicate : Prop :=
  ∀ s : State, s.TickReady → Completes (exec .vicTick s) fun t =>
    t.vic.badLine = true ↔
      0x30 ≤ t.vic.raster.toNat ∧ t.vic.raster.toNat ≤ 0xF7
        ∧ t.vic.raster.toNat % 8 = s.vic.regs.yscroll.toNat ∧ t.vic.den = true

/-! ## The background counters (44_background_counters) -/

/-- R191: line reload. -/
def Obligations.LineReloadAtCycle14 : Prop :=
  ∀ s : State, s.TickReady → Completes (exec .vicTick s) fun t =>
    t.vic.InSlot1 14 →
      t.vic.vc = s.vic.vcbase ∧ t.vic.vmli = 0 ∧ t.vic.rc = (if t.vic.badLine then 0 else s.vic.rc)
        ∧ t.vic.vcbase = s.vic.vcbase

/-- R190 (its coordinate is the spec's decision D34), R192 (the reading of the parenthesis is the spec's decision D24), R193 (the
spec's decision D23, log 18), R194: the whole life of `vcbase`, `rc` and `idle`. -/
def Obligations.RowCountersAndIdle : Prop :=
  ∀ s : State, s.TickReady → Completes (exec .vicTick s) fun t =>
    (t.vic.InSlot1 1 ∧ t.vic.raster.toNat = 0 → t.vic.vcbase = 0)
    ∧ (t.vic.InSlot1 58 →
      t.vic.vcbase = (if s.vic.rc = 7 then s.vic.vc else s.vic.vcbase)
      ∧ t.vic.rc = (if s.vic.rc ≠ 7 ∨ t.vic.badLine = true then s.vic.rc + 1 else s.vic.rc))
    ∧ (¬(t.vic.InSlot1 1 ∧ t.vic.raster.toNat = 0) → ¬t.vic.InSlot1 58 → t.vic.vcbase = s.vic.vcbase)
    ∧ (t.vic.InSlot1 14 → t.vic.rc = if t.vic.badLine then 0 else s.vic.rc)
    ∧ (¬t.vic.InSlot1 14 → ¬t.vic.InSlot1 58 → t.vic.rc = s.vic.rc)
    ∧ (t.vic.idle = true ↔
        t.vic.badLine = false ∧ (s.vic.idle = true ∨ (t.vic.InSlot1 58 ∧ s.vic.rc = 7)))

/-- R144 (that the address has the counter before the decrement is the spec's decision D26), R190 (D34): the whole life of the
refresh counter. -/
def Obligations.RefreshCounterLife : Prop :=
  ∀ s : State, s.TickReady → Completes (exec .vicTick s) fun t =>
    (t.vic.phase = .one ∧ 11 ≤ t.vic.cycle.toNat ∧ t.vic.cycle.toNat ≤ 15 →
      t.vic.ref.toNat = (if s.vic.ref.toNat = 0 then 255 else s.vic.ref.toNat - 1)
      ∧ ∃ r : AccessRecord, Handed s t r ∧ r.acc = .refresh
          ∧ r.addr.map BitVec.toNat = some (0x3F00 + s.vic.ref.toNat))
    ∧ (t.vic.InSlot1 1 ∧ t.vic.raster.toNat = 0 → t.vic.ref.toNat = 255)
    ∧ (¬(t.vic.phase = .one ∧ 11 ≤ t.vic.cycle.toNat ∧ t.vic.cycle.toNat ≤ 15) →
        ¬(t.vic.InSlot1 1 ∧ t.vic.raster.toNat = 0) → t.vic.ref = s.vic.ref)

/-- R145 (with R141 for when it happens, R193 for why `idle` is false then): in a c-access slot of a bad line the cache entry
`vmli` takes the data, and `vc` and `vmli` go up by one; in every other slot but the line reload they hold. -/
def Obligations.VideoMatrixAccessFillsTheLineCache : Prop :=
  ∀ s : State, s.TickReady → Completes (exec .vicTick s) fun t =>
    (t.vic.phase = .two ∧ 15 ≤ t.vic.cycle.toNat ∧ t.vic.cycle.toNat ≤ 54 ∧ t.vic.badLine = true →
      ∃ (r : AccessRecord) (d : BitVec 12), Handed s t r ∧ r.acc = .videoMatrixColor
        ∧ r.addr.map BitVec.toNat = some (s.vic.regs.vm.toNat * 1024 + s.vic.vc.toNat) ∧ r.data = some d
        ∧ s.vic.vmli.toNat < 40
        ∧ (∀ k : Fin 40, t.vic.lineCache[k] = if k.val = s.vic.vmli.toNat then d else s.vic.lineCache[k])
        ∧ t.vic.vc.toNat = (s.vic.vc.toNat + 1) % 1024 ∧ t.vic.vmli.toNat = s.vic.vmli.toNat + 1)
    ∧ (¬(t.vic.phase = .two ∧ 15 ≤ t.vic.cycle.toNat ∧ t.vic.cycle.toNat ≤ 54 ∧ t.vic.badLine = true) →
        t.vic.lineCache = s.vic.lineCache
        ∧ (¬t.vic.InSlot1 14 → t.vic.vc = s.vic.vc ∧ t.vic.vmli = s.vic.vmli))

/-! ## The sprites (45_sprite_dma) -/

/-- R200 (that the test is made at both coordinates is the spec's decision D33): DMA start. -/
def Obligations.SpriteDmaStartsAtCycles55And56 : Prop :=
  ∀ s : State, s.TickReady → Completes (exec .vicTick s) fun t =>
    t.vic.InSlot1 55 ∨ t.vic.InSlot1 56 → ∀ n : Fin 8,
      (s.vic.regs.spriteEnable.getLsbD n.val = true ∧ s.vic.regs.spriteY[n].toNat = t.vic.raster.toNat % 256
          ∧ s.vic.sprites[n].dma = false →
        t.vic.sprites[n] = { s.vic.sprites[n] with
          dma := true
          mcbase := 0
          yexp := if s.vic.regs.spriteYExpand.getLsbD n.val then false else s.vic.sprites[n].yexp })
      ∧ (¬(s.vic.regs.spriteEnable.getLsbD n.val = true ∧ s.vic.regs.spriteY[n].toNat = t.vic.raster.toNat % 256
          ∧ s.vic.sprites[n].dma = false) → t.vic.sprites[n] = s.vic.sprites[n])

/-- R201: the first increment of `mcbase`. -/
def Obligations.McbaseFirstIncrementAtCycle15 : Prop :=
  ∀ s : State, s.TickReady → Completes (exec .vicTick s) fun t =>
    t.vic.InSlot1 15 → ∀ n : Fin 8, t.vic.sprites[n] = { s.vic.sprites[n] with
      mcbase := if s.vic.sprites[n].yexp then s.vic.sprites[n].mcbase + 2 else s.vic.sprites[n].mcbase }

/-- R202 (that the test for 63 is made here is the spec's decision D33): the second increment and the end of DMA. -/
def Obligations.McbaseSecondIncrementEndsDmaAt63 : Prop :=
  ∀ s : State, s.TickReady → Completes (exec .vicTick s) fun t =>
    t.vic.InSlot1 16 → ∀ n : Fin 8,
      t.vic.sprites[n].mcbase
        = (if s.vic.sprites[n].yexp then s.vic.sprites[n].mcbase + 1 else s.vic.sprites[n].mcbase)
      ∧ (t.vic.sprites[n].mcbase = 63 → t.vic.sprites[n].dma = false ∧ t.vic.sprites[n].display = false)
      ∧ (t.vic.sprites[n].mcbase ≠ 63 →
          t.vic.sprites[n].dma = s.vic.sprites[n].dma ∧ t.vic.sprites[n].display = s.vic.sprites[n].display)
      ∧ t.vic.sprites[n].mc = s.vic.sprites[n].mc ∧ t.vic.sprites[n].yexp = s.vic.sprites[n].yexp

/-- R203: the reload of `mc` and display start. -/
def Obligations.McReloadAndDisplayStartAtCycle58 : Prop :=
  ∀ s : State, s.TickReady → Completes (exec .vicTick s) fun t =>
    t.vic.InSlot1 58 → ∀ n : Fin 8, t.vic.sprites[n] = { s.vic.sprites[n] with
      mc := s.vic.sprites[n].mcbase
      display := s.vic.sprites[n].display
        || (s.vic.sprites[n].dma && decide (s.vic.regs.spriteY[n].toNat = t.vic.raster.toNat % 256)) }

/-- R155, R156, R160, R140, R141 (the slot table is the spec's decision D20, D21, log 18): outside those slots a sprite changes
only by `mc + 1` in its own data slots while in DMA, and the pointer register only in the eight pointer slots, where it takes
the low byte read. -/
def Obligations.SpriteFetchesMoveMcAndThePointer : Prop :=
  ∀ s : State, s.TickReady → Completes (exec .vicTick s) fun t =>
    (¬t.vic.InSlot1 15 → ¬t.vic.InSlot1 16 → ¬t.vic.InSlot1 55 → ¬t.vic.InSlot1 56 → ¬t.vic.InSlot1 58 →
      ∀ n : Fin 8, t.vic.sprites[n] =
        if specSlot t.vic.phase t.vic.cycle.toNat t.vic.badLine s.vic.dma = .spriteData n then
          { s.vic.sprites[n] with mc := s.vic.sprites[n].mc + 1 }
        else s.vic.sprites[n])
    ∧ (∀ n : Fin 8, specSlot t.vic.phase t.vic.cycle.toNat t.vic.badLine s.vic.dma = .spritePointer n →
        ∃ (r : AccessRecord) (d : BitVec 12), Handed s t r ∧ r.acc = .spritePointer n ∧ r.data = some d
          ∧ r.addr.map BitVec.toNat = some (s.vic.regs.vm.toNat * 1024 + 0x3F8 + n.val)
          ∧ t.vic.sprPtr = d.setWidth 8)
    ∧ ((∀ n : Fin 8, specSlot t.vic.phase t.vic.cycle.toNat t.vic.badLine s.vic.dma ≠ .spritePointer n) →
        t.vic.sprPtr = s.vic.sprPtr)

/-! ## The scheduler and the bus (42_scheduler_access, 43_bus_ownership) -/

/-- R67, R140, R141: SlotDecode is the slot map, and a cycle outside 1..65 is code 8. -/
def Obligations.SlotDecodeIsTheSlotMap : Prop :=
  ∀ (ph : Phase) (c : BitVec 7) (badLine : Bool) (dma : Fin 8 → Bool),
    (1 ≤ c.toNat ∧ c.toNat ≤ 65 → slotDecode ph c badLine dma = .ok (specSlot ph c.toNat badLine dma))
    ∧ (c.toNat = 0 ∨ 65 < c.toNat → slotDecode ph c badLine dma = .error (.badSlot (slotWord ph c)))

/-- R180: BA is low exactly in the c-window of a bad line and in the windows of the table for the sprites in DMA. -/
def Obligations.BaFollowsTheWindows : Prop :=
  ∀ (ph : Phase) (c : BitVec 7) (badLine : Bool) (dma : Fin 8 → Bool), 1 ≤ c.toNat → c.toNat ≤ 65 →
    (SpecBaLow ph c.toNat badLine dma → baLevel ph c badLine dma = .low)
    ∧ (¬SpecBaLow ph c.toNat badLine dma → baLevel ph c badLine dma = .high)

/-- R181: AEC is high exactly in the CpuOwned slots. -/
def Obligations.AecIsHighExactlyWhenTheCpuOwnsTheBus : Prop :=
  ∀ (ph : Phase) (c : BitVec 7) (badLine : Bool) (dma : Fin 8 → Bool) (acc : AccessType),
    slotDecode ph c badLine dma = .ok acc →
    (acc = .cpuOwned → ph = .two ∧ aecLevel ph acc = .high) ∧ (acc ≠ .cpuOwned → aecLevel ph acc = .low)

/-- R183 (3): under steady `dma` and `badLine`, BA is low in each of the six half-cycles before a phase-2 slot that the block
takes (`h - 130` steps into the line before, where only sprite 3's window reaches). -/
def Obligations.BaLeadsEveryTakenPhase2SlotByThreeCycles : Prop :=
  ∀ (c c' : BitVec 7) (ph' : Phase) (k : Nat) (badLine : Bool) (dma : Fin 8 → Bool),
    1 ≤ c.toNat → c.toNat ≤ 65 → 1 ≤ c'.toNat → c'.toNat ≤ 65 → 1 ≤ k → k ≤ 6 →
    (slotIndex .two c = slotIndex ph' c' + k ∨ slotIndex .two c + 130 = slotIndex ph' c' + k) →
    slotDecode .two c badLine dma ≠ .ok .cpuOwned →
    baLevel ph' c' badLine dma = .low

/-- R159, R158, R182 with R143 to R156 for the address and R180, R181 for the two pins: each step hands out one access
record, of the slot it arrived in, and leaves the block's pins showing it. -/
def Obligations.TickRecordsAndDrivesTheSlot : Prop :=
  ∀ s : State, s.TickReady → Completes (exec .vicTick s) fun t =>
    ∃ (addr : Option (BitVec 14)) (ba aec : Signal),
      let acc := specSlot t.vic.phase t.vic.cycle.toNat t.vic.badLine t.vic.dma
      let before := { s.vic with idle := t.vic.idle }
      Handed s t ⟨t.vic.raster, t.vic.cycle, t.vic.phase, acc, addr, addr.map t.busData, specBlank before acc, ba, aec⟩
      ∧ addr.map BitVec.toNat = specAddr before t.vic.cycle.toNat acc
      ∧ (ba = .low ↔ SpecBaLow t.vic.phase t.vic.cycle.toNat t.vic.badLine t.vic.dma) ∧ ba ≠ .floating
      ∧ (aec = .high ↔ acc = .cpuOwned) ∧ aec ≠ .floating
      ∧ (s.BlockPinsOk → t.blockLevel .ba = ba ∧ t.blockLevel .aec = aec ∧ ShowsAddress t addr)

/-- R121, R25, R160: the frame of a step. Registers, latch, parameters, stimuli and the free-value counter are as they were; of
pins and traces only levels may change: those of BA, AEC, IRQ and the address pins, of the traces that these are on, and of the
pins that observe those traces. Every other pin and every other trace holds its level. IRQ and its trace are among them only on
a step that raises the interrupt (R124). -/
def Obligations.TickTouchesNothingElse : Prop :=
  ∀ s : State, s.TickReady → Completes (exec .vicTick s) fun t =>
    t.vic.regs = s.vic.regs ∧ t.vic.rasterLatch = s.vic.rasterLatch ∧ t.env = s.env ∧ t.pending = s.pending
    ∧ t.freeCtr = s.freeCtr ∧ (∀ a, t.memAt a = s.memAt a) ∧ SameWiring s t
    ∧ HoldsOthers s t stepBlockPins
    ∧ (¬(s.vic.EndsLine ∧ t.vic.raster = s.vic.rasterLatch ∧ s.vic.regs.irqEnableRaster = true) →
        HoldsOthers s t slotBlockPins)

/-- R41, R43, R50, R52: what a read gives. On a board with a memory oracle (log 5) its unit at the address; else bit `i` of the
data is `1` exactly where `D[i]` is `1`: a pin at `Z` reads as 0, which is the spec's decision D30 (log 19). -/
def Obligations.ReadsSampleTheDataPins : Prop :=
  ∀ (s : State) (a : BitVec 14),
    (∀ m, s.env.mem = some m → s.busData a = m.read a)
    ∧ (s.env.mem = none → ∀ i : Fin 12, ((s.busData a).getLsbD i.val = true ↔ s.blockLevel (.d i) = .high))

/-- R66, R67, R140 to R146, R155 to R160, R180 to R182 (that a slot word run by itself is sub-steps 6 to 10 is the model's choice,
log 8): every SLOT row runs the access that the slot map gives it, hands out its record, drives BA, AEC and the address pins,
and has that access's side effect and no other. -/
def Obligations.SlotRowsRunTheirSlot : Prop :=
  ∀ (s : State) (i : Instr) (ph : Phase) (c : BitVec 7), i.slotOf = some (ph, c) → s.Ready slotBlockPins →
    let acc := specSlot ph c.toNat s.vic.badLine s.vic.dma
    (acc ≠ .videoMatrixColor ∨ s.vic.vmli.toNat < 40) →
    Completes (exec i s) fun t =>
      ∃ (addr : Option (BitVec 14)) (ba aec : Signal),
        Handed s t ⟨s.vic.raster, c, ph, acc, addr, addr.map t.busData, specBlank s.vic acc, ba, aec⟩
        ∧ addr.map BitVec.toNat = specAddr s.vic c.toNat acc
        ∧ (ba = .low ↔ SpecBaLow ph c.toNat s.vic.badLine s.vic.dma) ∧ ba ≠ .floating
        ∧ (aec = .high ↔ acc = .cpuOwned) ∧ aec ≠ .floating
        ∧ (s.BlockPinsOk → t.blockLevel .ba = ba ∧ t.blockLevel .aec = aec ∧ ShowsAddress t addr)
        ∧ AccessEffect s.vic t.vic acc ((addr.map t.busData).getD 0)
        ∧ t.env = s.env ∧ t.pending = s.pending ∧ t.freeCtr = s.freeCtr ∧ (∀ a, t.memAt a = s.memAt a) ∧ SameWiring s t
        ∧ HoldsOthers s t slotBlockPins

/-- R145, R221 code 11: a c-access with `vmli >= 40` is the contract violation LineCacheIndex. That a SLOT word or the ACC word run
by itself makes that c-access, and so stops, is the model's choice (log 8, log 9: unsafe for a claim about such a word by
itself); R145 and R221 speak of the c-access of a step. -/
def Obligations.LineCacheIndexOutOfRangeIsAViolation : Prop :=
  ∀ s : State, 40 ≤ s.vic.vmli.toNat →
    (s.Ready addressBlockPins → exec .accVideoMatrixColor s = violate (.lineCacheIndex s.vic.vmli))
    ∧ (∀ (i : Instr) (ph : Phase) (c : BitVec 7), i.slotOf = some (ph, c) → s.Ready slotBlockPins →
        specSlot ph c.toNat s.vic.badLine s.vic.dma = .videoMatrixColor →
        exec i s = violate (.lineCacheIndex s.vic.vmli))

/-- R68, R143 to R146, R155 to R160 (that an access-type word run by itself is sub-steps 8 to 10 at the state's own coordinate,
and that its record carries the BA and AEC of R180 and R181 at that coordinate, which it does not drive, is the model's choice,
log 9): every ACC row makes its access, hands out its record, shows its address, and has its side effect and no other. Where a g-access in display state is asked for outside cycles 16 to 55 the
spec names no column and its address is a free value (log 11): nothing is said of it. -/
def Obligations.AccessRowsMakeTheirAccess : Prop :=
  ∀ (s : State) (i : Instr) (acc : AccessType), i.accOf = some acc → s.Ready addressBlockPins →
    (acc ≠ .videoMatrixColor ∨ s.vic.vmli.toNat < 40) →
    Completes (exec i s) fun t =>
      ∃ (addr : Option (BitVec 14)) (ba aec : Signal),
        Handed s t ⟨s.vic.raster, s.vic.cycle, s.vic.phase, acc, addr, addr.map t.busData, specBlank s.vic acc, ba, aec⟩
        ∧ (1 ≤ s.vic.cycle.toNat → s.vic.cycle.toNat ≤ 65 →
            (ba = .low ↔ SpecBaLow s.vic.phase s.vic.cycle.toNat s.vic.badLine s.vic.dma))
        ∧ ba ≠ .floating
        ∧ (aec = .high ↔ s.vic.phase = .two ∧ acc ≠ .videoMatrixColor ∧ ∀ n, acc ≠ .spriteData n) ∧ aec ≠ .floating
        ∧ (addr = none ↔ acc = .cpuOwned)
        ∧ (acc ≠ .bitmapChar ∨ s.vic.idle = true ∨ (16 ≤ s.vic.cycle.toNat ∧ s.vic.cycle.toNat ≤ 55) →
            addr.map BitVec.toNat = specAddr s.vic s.vic.cycle.toNat acc ∧ t.freeCtr = s.freeCtr)
        ∧ (s.BlockPinsOk → ShowsAddress t addr)
        ∧ AccessEffect s.vic t.vic acc ((addr.map t.busData).getD 0)
        ∧ t.env = s.env ∧ t.pending = s.pending ∧ (∀ a, t.memAt a = s.memAt a) ∧ SameWiring s t
        ∧ HoldsOthers s t addressBlockPins

/-- R69, R147 to R154, R161 (the bit-packings are the spec's decision D25; that a selector word run by itself is this access at
the state's own coordinate, and that its record carries the BA and AEC of R180 and R181 there, which it does not drive, is the
model's choice, logs 9 and 10): each GMODE row makes the g-access of display state under its own selector, `ecm` bit 2, `bmm` bit 1, `mcm` bit 0; the three invalid ones
are made too, and are blank; nothing of the block changes. -/
def Obligations.GraphicsModeRowsAddress : Prop :=
  ∀ (s : State) (i : Instr) (sel : GModeWord), i.gmodeOf = some sel → s.Ready addressBlockPins →
    Completes (exec i s) fun t =>
      ∃ (addr : BitVec 14) (ba aec : Signal),
        Handed s t ⟨s.vic.raster, s.vic.cycle, s.vic.phase, .bitmapChar, some addr, some (t.busData addr),
          decide (sel.toNat = 5 ∨ sel.toNat = 6 ∨ sel.toNat = 7), ba, aec⟩
        ∧ (1 ≤ s.vic.cycle.toNat → s.vic.cycle.toNat ≤ 65 →
            (ba = .low ↔ SpecBaLow s.vic.phase s.vic.cycle.toNat s.vic.badLine s.vic.dma))
        ∧ ba ≠ .floating ∧ (aec = .high ↔ s.vic.phase = .two) ∧ aec ≠ .floating
        ∧ (16 ≤ s.vic.cycle.toNat ∧ s.vic.cycle.toNat ≤ 55 →
            addr.toNat = specGAddr (decide (4 ≤ sel.toNat)) (decide (sel.toNat / 2 % 2 = 1)) s.vic
                (s.vic.cacheByte (s.vic.cycle.toNat - 16)) (s.vic.cycle.toNat - 16)
            ∧ t.freeCtr = s.freeCtr)
        ∧ (s.BlockPinsOk → ShowsAddress t (some addr))
        ∧ t.vic = s.vic
        ∧ t.env = s.env ∧ t.pending = s.pending ∧ (∀ a, t.memAt a = s.memAt a) ∧ SameWiring s t
        ∧ HoldsOthers s t addressBlockPins

/-! ## The register side (60_exceptions section 4, 45_sprite_dma R204) -/

/-- R232, R65, R26 (the widths are the spec's decision D36), R233 (that nothing is compared at the write is the spec's decision
D39): each field id writes its own field, the value cut to its width, and nothing else; an id that names no field is code 7;
the raster latch has its own operation, which stores and does nothing else. -/
def Obligations.RegisterWritesChangeOneField : Prop :=
  ∀ (s : State) (v : BitVec 12),
    exec (.vicSetField 0 v) s = .next (s.setRegs { s.vic.regs with yscroll := v.setWidth 3 })
    ∧ exec (.vicSetField 1 v) s = .next (s.setRegs { s.vic.regs with denBit := v.getLsbD 0 })
    ∧ exec (.vicSetField 2 v) s = .next (s.setRegs { s.vic.regs with ecm := v.getLsbD 0 })
    ∧ exec (.vicSetField 3 v) s = .next (s.setRegs { s.vic.regs with bmm := v.getLsbD 0 })
    ∧ exec (.vicSetField 4 v) s = .next (s.setRegs { s.vic.regs with mcm := v.getLsbD 0 })
    ∧ exec (.vicSetField 5 v) s = .next (s.setRegs { s.vic.regs with vm := v.setWidth 4 })
    ∧ exec (.vicSetField 6 v) s = .next (s.setRegs { s.vic.regs with cb := v.setWidth 3 })
    ∧ exec (.vicSetField 7 v) s = .next (s.setRegs { s.vic.regs with spriteEnable := v.setWidth 8 })
    ∧ exec (.vicSetField 8 v) s = .next (s.setRegs { s.vic.regs with irqEnableRaster := v.getLsbD 0 })
    ∧ (∀ n : Fin 8, exec (.vicSetField (BitVec.ofNat 12 (0x10 + n.val)) v) s
        = .next (s.setRegs { s.vic.regs with spriteY := s.vic.regs.spriteY.set n.val (v.setWidth 8) }))
    ∧ (∀ f : FieldId, 8 < f.toNat ∧ f.toNat < 0x10 ∨ 0x17 < f.toNat →
        exec (.vicSetField f v) s = violate (.noSuchField f))
    ∧ (∀ latch : BitVec 9,
        exec (.vicWriteRasterCompare latch) s = .next { s with vic := { s.vic with rasterLatch := latch } })

/-- R204: the Y-expansion register is written; a bit written as 0 sets its flip-flop, a bit written as 1 leaves it alone. -/
def Obligations.WriteYExpandForcesFlipFlops : Prop :=
  ∀ (s : State) (value : BitVec 8), Completes (exec (.vicWriteYExpand value) s) fun t =>
    t.vic.regs = { s.vic.regs with spriteYExpand := value }
    ∧ (∀ n : Fin 8, t.vic.sprites[n] = { s.vic.sprites[n] with
        yexp := if value.getLsbD n.val = false then true else s.vic.sprites[n].yexp })
    ∧ t = { s with vic := { s.vic with regs := t.vic.regs, sprites := t.vic.sprites } }

/-- R234, R227 (the operation is the spec's decision D35): the request is cleared and the IRQ pin released, whatever else holds
the line: on an open-drain line the trace is `0` afterwards exactly while another source asserts. -/
def Obligations.AcknowledgeReleasesTheLine : Prop :=
  ∀ s : State, s.Ready [.irq] → s.BlockPinsOk → Completes (exec .vicAckRasterIrq s) fun t =>
    t.vic = { s.vic with irqRequestRaster := false } ∧ t.blockLevel .irq = .floating
    ∧ t.env = s.env ∧ t.pending = s.pending ∧ t.freeCtr = s.freeCtr ∧ SameWiring s t ∧ HoldsOthers s t [.irq]
    ∧ (∀ h tr, (s.pins.find (s.blockHandle .irq)).map Pin.trace = some (some h) → s.traces.find h = some tr →
        tr.pull = .up → (∀ p ∈ tr.members, p ≠ s.blockHandle .irq → ¬ActivelyDrives s p .high) →
        (t.traceLevel h = .low ↔ ∃ p ∈ tr.members, p ≠ s.blockHandle .irq ∧ ActivelyDrives s p .low)
        ∧ ((∀ p ∈ tr.members, p ≠ s.blockHandle .irq → ¬ActivelyDrives s p .low) → t.traceLevel h = .high))

/-! ## Reset (10_state R29, 70_reset_and_hazards) -/

/-- R29 (every value is the spec's decision D19), R27 (the modes): the reset table of the VIC block and of its pins, levels and
modes (that the pins are there, as terminals of the block, is the model's choice, log 1; their levels are C17's). -/
def Obligations.ResetTable : Prop :=
  let v := State.reset.vic
  (v.phase = .two ∧ v.cycle.toNat = 65 ∧ v.raster.toNat = 262 ∧ v.den = false ∧ v.badLine = false
    ∧ v.rasterLatch = 0 ∧ v.rasterLow = 0 ∧ v.rasterHigh = false ∧ v.irqRequestRaster = false)
  ∧ (v.vc = 0 ∧ v.vcbase = 0 ∧ v.rc.toNat = 7 ∧ v.vmli = 0 ∧ v.idle = true ∧ (∀ k : Fin 40, v.lineCache[k] = 0)
    ∧ v.ref.toNat = 255 ∧ v.sprPtr = 0)
  ∧ (∀ n : Fin 8, v.sprites[n] = ⟨0, 0, true, false, false⟩ ∧ v.regs.spriteY[n] = 0)
  ∧ (v.regs.yscroll = 0 ∧ v.regs.denBit = false ∧ v.regs.ecm = false ∧ v.regs.bmm = false ∧ v.regs.mcm = false
    ∧ v.regs.vm = 0 ∧ v.regs.cb = 0 ∧ v.regs.spriteEnable = 0 ∧ v.regs.spriteYExpand = 0
    ∧ v.regs.irqEnableRaster = false)
  ∧ (State.reset.blockLevel .ba = .high ∧ State.reset.blockLevel .aec = .high
    ∧ State.reset.blockLevel .irq = .floating ∧ State.reset.blockLevel .phi = .floating
    ∧ (∀ i : Fin 14, State.reset.blockLevel (.a i) = .floating)
    ∧ ∀ i : Fin 12, State.reset.blockLevel (.d i) = .floating)
  ∧ (State.reset.pinMode (State.reset.blockHandle .ba) = .output
    ∧ State.reset.pinMode (State.reset.blockHandle .aec) = .output
    ∧ State.reset.pinMode (State.reset.blockHandle .irq) = .output
    ∧ State.reset.pinMode (State.reset.blockHandle .phi) = .input
    ∧ (∀ i : Fin 14, State.reset.pinMode (State.reset.blockHandle (.a i)) = .output)
    ∧ ∀ i : Fin 12, State.reset.pinMode (State.reset.blockHandle (.d i)) = .input)
  ∧ State.reset.traces = [] ∧ ∀ p : Handle, State.reset.pins.has p.toNat = false

/-- The reset state meets every invariant that the other statements assume or prove (R14, R17, R194, R203). That the block's
thirty pins exist then, on which `HasTerminals` in `Inv` and `TickReady`, and `BlockPinsOk`, rest, is the model's choice (log 1):
R241 has the arena start empty. -/
def Obligations.ResetHoldsTheInvariants : Prop :=
  State.reset.Inv ∧ State.reset.Synced ∧ State.reset.TickReady ∧ State.reset.BlockPinsOk

/-- R243, R29: the first step after reset arrives at (0, 1, 1), publishes raster 0, runs the frame start, and its slot is an Idle
access at 0x3FFF with BA `1` and AEC `0`. That its data is 0 rests on the model's reset state having no memory oracle (log 5) and
on data pins at Z reading as 0, the spec's decision D30 (log 19); the pins shown are the block's terminals (log 1). -/
def Obligations.FirstStepAfterReset : Prop :=
  Completes (step (State.reset.withFetchWord 32 0x20000000)) fun t =>
    t.vic.phase = .one ∧ t.vic.cycle.toNat = 1 ∧ t.vic.raster.toNat = 0 ∧ t.vic.rasterLow = 0
    ∧ t.vic.rasterHigh = false ∧ t.vic.irqRequestRaster = false ∧ t.vic.vcbase = 0 ∧ t.vic.ref = 255
    ∧ t.out = [.access ⟨0, 1, .one, .idle, some 0x3FFF, some 0, false, .high, .low⟩]
    ∧ t.blockLevel .ba = .high ∧ t.blockLevel .aec = .low ∧ ∀ i : Fin 14, t.blockLevel (.a i) = .high

/-! ## Rules of the whole machine -/

/-- R121, R122, R229, "the model runs indefinitely in a fixed-length cycle": from every state that is ready for it any number of
steps completes, the state stays ready, and a frame is 34190 steps. -/
def Obligations.TheClockRunsForever : Prop :=
  ∀ (n : Nat) (s : State), s.TickReady →
    Completes (times .vicTick n s) fun t => t.TickReady ∧ t.vic.frameIndex = (s.vic.frameIndex + n) % 34190

/-- R11, R13, R17, R81, R192, R194, R203 (that the terminals exist is log 1): on every board, whatever its listeners do, a step
keeps the invariant: the wiring of pins and traces is consistent, every trace holds a level that a resolution gives, the
coordinate stays in range, idle implies `rc = 7`, `vmli` is at most 40, display implies DMA, memory keeps its form. -/
def Obligations.EveryStepKeepsTheInvariant : Prop :=
  ∀ s t : State, s.Inv → step s = .next t → t.Inv

/-- R14, R46, R47: on every board, whatever its listeners do, once a stimulus has completed every Input-capable member of every
trace has adopted its trace's level. -/
def Obligations.EveryStepLeavesThePinsSynchronised : Prop :=
  ∀ s t : State, s.Inv → s.Synced → step s = .next t → t.Synced

/-- R28, R43: on every board no instruction changes the parameters of the machine or the memory behind the bus, or takes a
stimulus out of turn; and what has been handed out stays handed out. -/
def Obligations.NoInstructionChangesParametersOrMemory : Prop :=
  ∀ (i : Instr) (s t : State), exec i s = .next t →
    t.env = s.env ∧ (∀ a, t.memAt a = s.memAt a) ∧ t.pending = s.pending ∧ s.out <:+ t.out ∧ s.freeCtr ≤ t.freeCtr

/-- R11, "There is no operation that removes a pin from a trace, removes a listener, or destroys a pin", and R13's order of
members: on every board an instruction only adds to them. -/
def Obligations.PinsTracesAndListenersOnlyGrow : Prop :=
  ∀ (i : Instr) (s t : State), exec i s = .next t →
    (∀ p pin, s.pins.find p = some pin → ∃ pin', t.pins.find p = some pin' ∧ pin'.number = pin.number
      ∧ pin'.name = pin.name ∧ pin.listeners <+: pin'.listeners ∧ (∀ h, pin.trace = some h → pin'.trace = some h))
    ∧ (∀ h tr, s.traces.find h = some tr → ∃ tr', t.traces.find h = some tr' ∧ tr.members <+: tr'.members)

/-- R25, R108: on a board whose listeners keep to pins and traces, no pin or trace operation, internal ones included, changes
anything of the VIC block. -/
def Obligations.PinAndTraceOperationsLeaveTheBlockAlone : Prop :=
  ∀ (i : Instr) (s t : State), s.SubstrateBoard → i.onSubstrate = true → exec i s = .next t → t.vic = s.vic

/-- R220: on every board every instruction has a meaning: none is refused. -/
def Obligations.NoInstructionIsRefused : Prop :=
  ∀ (i : Instr) (s : State) (r : Refusal), exec i s ≠ .refused r

/-- R120, R121, R242 (4), R231 (1): the block runs from its clock pin. On a board whose PHI pin carries the block's STEP, and which
is ready for a step, an edge of the clock trace is VIC_TICK in the state where the edge stands and the call has been handed out,
and that state is ready for it: so whatever the statements about VIC_TICK say holds of the edge. The level of the edge, and the
block's readiness, outlast the step. And the board of program P5, its clock source toggled any number of times, runs one step at
each edge, 34190 to a frame. (The listener as data of the environment is log 3, FUEL log 4.) -/
def Obligations.EdgesOfPhiRunTheBlock : Prop :=
  (∀ (s : State) (i : Instr) (t p l n : Nat) (tr : Trace) (pin : Pin) (v : Signal) (u : State),
    s.Resolves i t v u → OneListener u t p l (n + 1) tr pin → u.behaviour l = some .vicStep → s.TickReady →
    adopt pin (resolve u tr v) ≠ pin.level →
    (u.calling t p l tr pin v).TickReady ∧ (u.calling t p l tr pin v).vic = s.vic
    ∧ exec i s = exec .vicTick (u.calling t p l tr pin v)
    ∧ Completes (exec i s) fun w => w.TickReady ∧ w.traceLevel t = resolve u tr v
        ∧ w.pinLevel p = adopt pin (resolve u tr v) ∧ SameWiring s w
        ∧ w.vic.frameIndex = (s.vic.frameIndex + 1) % 34190)
  ∧ (∀ (n : Nat) (s : State) (q : Handle) (t p l : Nat), s.PhiBoard q t p l →
      Completes (times (.pinToggle q) n s) fun w =>
        w.PhiBoard q t p l ∧ w.vic.frameIndex = (s.vic.frameIndex + n) % 34190)
end

