-- ==== Sys2Proof/Laws/Arena.lean ====
section
/-! SUPPORT. The laws of arenas: read after write, membership, the canonical form. -/
namespace Sys2Proof.Machine

variable {α : Type}

@[simp] theorem Arena.find_nil (k : Nat) : Arena.find ([] : Arena α) k = none := rfl

theorem Arena.find_cons (j : Nat) (x : α) (m : Arena α) (k : Nat) :
    Arena.find ((j, x) :: m) k = if k = j then some x else Arena.find m k := rfl

@[simp] theorem Arena.find_put_same (m : Arena α) (k : Nat) (v : α) : (m.put k v).find k = some v := by
  induction m with
  | nil => simp [Arena.put, Arena.find]
  | cons e m ih =>
    obtain ⟨j, x⟩ := e
    simp only [Arena.put]
    split
    · simp [Arena.find]
    · split
      · simp [Arena.find]
      · simp [Arena.find, *]

theorem Arena.find_put_ne (m : Arena α) {k k' : Nat} (h : k' ≠ k) (v : α) : (m.put k v).find k' = m.find k' := by
  induction m with
  | nil => simp [Arena.put, Arena.find, h]
  | cons e m ih =>
    obtain ⟨j, x⟩ := e
    simp only [Arena.put]
    split
    · simp [Arena.find, h]
    · split
      · subst_vars; simp [Arena.find, h]
      · simp [Arena.find, ih]

theorem Arena.find_put (m : Arena α) (k k' : Nat) (v : α) :
    (m.put k v).find k' = if k' = k then some v else m.find k' := by
  by_cases h : k' = k
  · subst h; simp
  · simp [Arena.find_put_ne m h, h]

theorem Arena.has_put (m : Arena α) (k k' : Nat) (v : α) : (m.put k v).has k' = (decide (k' = k) || m.has k') := by
  simp only [Arena.has, Arena.find_put]
  by_cases h : k' = k <;> simp [h]

theorem Arena.mem_of_find {m : Arena α} {k : Nat} {x : α} (h : m.find k = some x) : (k, x) ∈ m := by
  induction m with
  | nil => simp at h
  | cons e m ih =>
    obtain ⟨j, y⟩ := e
    rw [Arena.find_cons] at h
    split at h
    · cases h; subst_vars; exact .head _
    · exact .tail _ (ih h)

theorem Arena.find_of_mem {m : Arena α} (hs : m.Sorted) {k : Nat} {x : α} (h : (k, x) ∈ m) : m.find k = some x := by
  induction m with
  | nil => cases h
  | cons e m ih =>
    obtain ⟨j, y⟩ := e
    have hs' := List.pairwise_cons.mp hs
    rw [Arena.find_cons]
    rcases List.mem_cons.mp h with h | h
    · cases h; simp
    · have := hs'.1 _ h
      rw [if_neg (by simp at this; omega)]
      exact ih hs'.2 h

theorem Arena.mem_iff_find {m : Arena α} (hs : m.Sorted) (k : Nat) (x : α) : (k, x) ∈ m ↔ m.find k = some x :=
  ⟨Arena.find_of_mem hs, Arena.mem_of_find⟩

theorem Arena.mem_put {m : Arena α} {k : Nat} {v : α} {e : Nat × α} (h : e ∈ m.put k v) : e = (k, v) ∨ e ∈ m := by
  induction m with
  | nil => simpa [Arena.put] using h
  | cons d m ih =>
    obtain ⟨j, x⟩ := d
    simp only [Arena.put] at h
    split at h
    · simpa using h
    · split at h
      · rcases List.mem_cons.mp h with h | h
        · exact .inl h
        · exact .inr (.tail _ h)
      · rcases List.mem_cons.mp h with h | h
        · exact .inr (h ▸ .head _)
        · exact (ih h).imp id (.tail _)

theorem Arena.put_sorted {m : Arena α} (hs : m.Sorted) (k : Nat) (v : α) : (m.put k v).Sorted := by
  induction m with
  | nil => simp [Arena.put, Arena.Sorted]
  | cons d m ih =>
    obtain ⟨j, x⟩ := d
    have hs' := List.pairwise_cons.mp hs
    simp only [Arena.put]
    split
    · refine List.pairwise_cons.mpr ⟨fun e he => ?_, hs⟩
      rcases List.mem_cons.mp he with rfl | he
      · assumption
      · have := hs'.1 e he; simp at this ⊢; omega
    · split
      · subst_vars; exact List.pairwise_cons.mpr ⟨hs'.1, hs'.2⟩
      · refine List.pairwise_cons.mpr ⟨fun e he => ?_, ih hs'.2⟩
        rcases Arena.mem_put he with rfl | he
        · simp; omega
        · exact hs'.1 e he

/-- Writing twice to one handle is writing once. -/
@[simp] theorem Arena.put_put (m : Arena α) (k : Nat) (v w : α) : (m.put k v).put k w = m.put k w := by
  induction m with
  | nil => simp [Arena.put]
  | cons d m ih =>
    obtain ⟨j, x⟩ := d
    by_cases h1 : k < j
    · simp [Arena.put, h1]
    · by_cases h2 : k = j
      · simp [Arena.put, h2]
      · simp [Arena.put, h1, h2, ih]

/-- Writing back what a handle holds changes nothing. -/
theorem Arena.put_find {m : Arena α} (hs : m.Sorted) {k : Nat} {x : α} (h : m.find k = some x) : m.put k x = m := by
  induction m with
  | nil => simp at h
  | cons d m ih =>
    obtain ⟨j, y⟩ := d
    have hs' := List.pairwise_cons.mp hs
    rw [Arena.find_cons] at h
    by_cases hk : k = j
    · subst hk; simp at h; simp [Arena.put, h]
    · rw [if_neg hk] at h
      have := hs'.1 _ (Arena.mem_of_find h)
      simp only [Arena.put]
      rw [if_neg (by simp at this; omega), if_neg hk, ih hs'.2 h]

/-- Two canonical arenas that answer alike are equal. -/
theorem Arena.ext_find {m n : Arena α} (hm : m.Sorted) (hn : n.Sorted) (h : ∀ k, m.find k = n.find k) : m = n := by
  have mem : ∀ e, e ∈ m ↔ e ∈ n := fun ⟨k, x⟩ => by
    rw [Arena.mem_iff_find hm, Arena.mem_iff_find hn, h]
  have nd : ∀ {l : Arena α}, l.Sorted → l.Nodup := fun hl => hl.imp (fun {a b} hab he => by simp [he] at hab)
  exact ((List.perm_ext_iff_of_nodup (nd hm) (nd hn)).mpr mem).eq_of_pairwise
    (fun a b _ _ h1 h2 => absurd h1 (Nat.lt_asymm h2)) hm hn

end Sys2Proof.Machine
end

