-- ==== Sys2Proof/Laws/State.lean ====
section
/-! SUPPORT. One lemma per field per update of the state, each true by definition, so that no later proof unfolds a record
update. -/
namespace Sys2Proof.Machine

/-! ### `State.setPin` -/

@[simp] theorem State.setPin_pins (s : State) (p : Nat) (pin : Pin) : (s.setPin p pin).pins = Arena.put s.pins p pin := rfl
@[simp] theorem State.setPin_traces (s : State) (p : Nat) (pin : Pin) : (s.setPin p pin).traces = s.traces := rfl
@[simp] theorem State.setPin_vic (s : State) (p : Nat) (pin : Pin) : (s.setPin p pin).vic = s.vic := rfl
@[simp] theorem State.setPin_env (s : State) (p : Nat) (pin : Pin) : (s.setPin p pin).env = s.env := rfl
@[simp] theorem State.setPin_pending (s : State) (p : Nat) (pin : Pin) : (s.setPin p pin).pending = s.pending := rfl
@[simp] theorem State.setPin_out (s : State) (p : Nat) (pin : Pin) : (s.setPin p pin).out = s.out := rfl
@[simp] theorem State.setPin_freeCtr (s : State) (p : Nat) (pin : Pin) : (s.setPin p pin).freeCtr = s.freeCtr := rfl

/-! ### `State.setTrace` -/

@[simp] theorem State.setTrace_pins (s : State) (t : Nat) (tr : Trace) : (s.setTrace t tr).pins = s.pins := rfl
@[simp] theorem State.setTrace_traces (s : State) (t : Nat) (tr : Trace) : (s.setTrace t tr).traces = Arena.put s.traces t tr := rfl
@[simp] theorem State.setTrace_vic (s : State) (t : Nat) (tr : Trace) : (s.setTrace t tr).vic = s.vic := rfl
@[simp] theorem State.setTrace_env (s : State) (t : Nat) (tr : Trace) : (s.setTrace t tr).env = s.env := rfl
@[simp] theorem State.setTrace_pending (s : State) (t : Nat) (tr : Trace) : (s.setTrace t tr).pending = s.pending := rfl
@[simp] theorem State.setTrace_out (s : State) (t : Nat) (tr : Trace) : (s.setTrace t tr).out = s.out := rfl
@[simp] theorem State.setTrace_freeCtr (s : State) (t : Nat) (tr : Trace) : (s.setTrace t tr).freeCtr = s.freeCtr := rfl

/-! ### `State.setVic` -/

@[simp] theorem State.setVic_pins (s : State) (v : Vic) : (s.setVic v).pins = s.pins := rfl
@[simp] theorem State.setVic_traces (s : State) (v : Vic) : (s.setVic v).traces = s.traces := rfl
@[simp] theorem State.setVic_vic (s : State) (v : Vic) : (s.setVic v).vic = v := rfl
@[simp] theorem State.setVic_env (s : State) (v : Vic) : (s.setVic v).env = s.env := rfl
@[simp] theorem State.setVic_pending (s : State) (v : Vic) : (s.setVic v).pending = s.pending := rfl
@[simp] theorem State.setVic_out (s : State) (v : Vic) : (s.setVic v).out = s.out := rfl
@[simp] theorem State.setVic_freeCtr (s : State) (v : Vic) : (s.setVic v).freeCtr = s.freeCtr := rfl

/-! ### `State.setRegs` -/

@[simp] theorem State.setRegs_pins (s : State) (r : Regs) : (s.setRegs r).pins = s.pins := rfl
@[simp] theorem State.setRegs_traces (s : State) (r : Regs) : (s.setRegs r).traces = s.traces := rfl
@[simp] theorem State.setRegs_vic (s : State) (r : Regs) : (s.setRegs r).vic = { s.vic with regs := r } := rfl
@[simp] theorem State.setRegs_env (s : State) (r : Regs) : (s.setRegs r).env = s.env := rfl
@[simp] theorem State.setRegs_pending (s : State) (r : Regs) : (s.setRegs r).pending = s.pending := rfl
@[simp] theorem State.setRegs_out (s : State) (r : Regs) : (s.setRegs r).out = s.out := rfl
@[simp] theorem State.setRegs_freeCtr (s : State) (r : Regs) : (s.setRegs r).freeCtr = s.freeCtr := rfl

/-! ### `State.emit` -/

@[simp] theorem State.emit_pins (s : State) (e : Event) : (s.emit e).pins = s.pins := rfl
@[simp] theorem State.emit_traces (s : State) (e : Event) : (s.emit e).traces = s.traces := rfl
@[simp] theorem State.emit_vic (s : State) (e : Event) : (s.emit e).vic = s.vic := rfl
@[simp] theorem State.emit_env (s : State) (e : Event) : (s.emit e).env = s.env := rfl
@[simp] theorem State.emit_pending (s : State) (e : Event) : (s.emit e).pending = s.pending := rfl
@[simp] theorem State.emit_out (s : State) (e : Event) : (s.emit e).out = e :: s.out := rfl
@[simp] theorem State.emit_freeCtr (s : State) (e : Event) : (s.emit e).freeCtr = s.freeCtr := rfl

/-! ### `State.drawFree` -/

@[simp] theorem State.drawFree_pins (s : State) : (s.drawFree).pins = s.pins := rfl
@[simp] theorem State.drawFree_traces (s : State) : (s.drawFree).traces = s.traces := rfl
@[simp] theorem State.drawFree_vic (s : State) : (s.drawFree).vic = s.vic := rfl
@[simp] theorem State.drawFree_env (s : State) : (s.drawFree).env = s.env := rfl
@[simp] theorem State.drawFree_pending (s : State) : (s.drawFree).pending = s.pending := rfl
@[simp] theorem State.drawFree_out (s : State) : (s.drawFree).out = s.out := rfl
@[simp] theorem State.drawFree_freeCtr (s : State) : (s.drawFree).freeCtr = s.freeCtr + 1 := rfl

/-! ### `State.record` -/

@[simp] theorem State.record_pins (s : State) (sl : Slot) (ba aec : Signal) (acc : AccessType) (a : Option (BitVec 14)) (d : Option (BitVec 12)) (b : Bool) : (s.record sl ba aec acc a d b).pins = s.pins := rfl
@[simp] theorem State.record_traces (s : State) (sl : Slot) (ba aec : Signal) (acc : AccessType) (a : Option (BitVec 14)) (d : Option (BitVec 12)) (b : Bool) : (s.record sl ba aec acc a d b).traces = s.traces := rfl
@[simp] theorem State.record_vic (s : State) (sl : Slot) (ba aec : Signal) (acc : AccessType) (a : Option (BitVec 14)) (d : Option (BitVec 12)) (b : Bool) : (s.record sl ba aec acc a d b).vic = s.vic := rfl
@[simp] theorem State.record_env (s : State) (sl : Slot) (ba aec : Signal) (acc : AccessType) (a : Option (BitVec 14)) (d : Option (BitVec 12)) (b : Bool) : (s.record sl ba aec acc a d b).env = s.env := rfl
@[simp] theorem State.record_pending (s : State) (sl : Slot) (ba aec : Signal) (acc : AccessType) (a : Option (BitVec 14)) (d : Option (BitVec 12)) (b : Bool) : (s.record sl ba aec acc a d b).pending = s.pending := rfl
@[simp] theorem State.record_out (s : State) (sl : Slot) (ba aec : Signal) (acc : AccessType) (a : Option (BitVec 14)) (d : Option (BitVec 12)) (b : Bool) : (s.record sl ba aec acc a d b).out = .access ⟨sl.raster, sl.cycle, sl.phase, acc, a, d, b, ba, aec⟩ :: s.out := rfl
@[simp] theorem State.record_freeCtr (s : State) (sl : Slot) (ba aec : Signal) (acc : AccessType) (a : Option (BitVec 14)) (d : Option (BitVec 12)) (b : Bool) : (s.record sl ba aec acc a d b).freeCtr = s.freeCtr := rfl

/-! ### The transitions of the block leave the rest of the record -/

@[simp] theorem Vic.publish_phase (v : Vic) : (v.publish).phase = v.phase := rfl
@[simp] theorem Vic.publish_cycle (v : Vic) : (v.publish).cycle = v.cycle := rfl
@[simp] theorem Vic.publish_raster (v : Vic) : (v.publish).raster = v.raster := rfl
@[simp] theorem Vic.publish_den (v : Vic) : (v.publish).den = v.den := rfl
@[simp] theorem Vic.publish_badLine (v : Vic) : (v.publish).badLine = v.badLine := rfl
@[simp] theorem Vic.publish_rasterLatch (v : Vic) : (v.publish).rasterLatch = v.rasterLatch := rfl
@[simp] theorem Vic.publish_irqRequestRaster (v : Vic) : (v.publish).irqRequestRaster = v.irqRequestRaster := rfl
@[simp] theorem Vic.publish_vc (v : Vic) : (v.publish).vc = v.vc := rfl
@[simp] theorem Vic.publish_vcbase (v : Vic) : (v.publish).vcbase = v.vcbase := rfl
@[simp] theorem Vic.publish_rc (v : Vic) : (v.publish).rc = v.rc := rfl
@[simp] theorem Vic.publish_vmli (v : Vic) : (v.publish).vmli = v.vmli := rfl
@[simp] theorem Vic.publish_idle (v : Vic) : (v.publish).idle = v.idle := rfl
@[simp] theorem Vic.publish_lineCache (v : Vic) : (v.publish).lineCache = v.lineCache := rfl
@[simp] theorem Vic.publish_ref (v : Vic) : (v.publish).ref = v.ref := rfl
@[simp] theorem Vic.publish_sprites (v : Vic) : (v.publish).sprites = v.sprites := rfl
@[simp] theorem Vic.publish_sprPtr (v : Vic) : (v.publish).sprPtr = v.sprPtr := rfl
@[simp] theorem Vic.publish_regs (v : Vic) : (v.publish).regs = v.regs := rfl

@[simp] theorem Vic.recomputeBadLine_phase (v : Vic) : (v.recomputeBadLine).phase = v.phase := rfl
@[simp] theorem Vic.recomputeBadLine_cycle (v : Vic) : (v.recomputeBadLine).cycle = v.cycle := rfl
@[simp] theorem Vic.recomputeBadLine_raster (v : Vic) : (v.recomputeBadLine).raster = v.raster := rfl
@[simp] theorem Vic.recomputeBadLine_den (v : Vic) : (v.recomputeBadLine).den = v.den := rfl
@[simp] theorem Vic.recomputeBadLine_rasterLatch (v : Vic) : (v.recomputeBadLine).rasterLatch = v.rasterLatch := rfl
@[simp] theorem Vic.recomputeBadLine_rasterLow (v : Vic) : (v.recomputeBadLine).rasterLow = v.rasterLow := rfl
@[simp] theorem Vic.recomputeBadLine_rasterHigh (v : Vic) : (v.recomputeBadLine).rasterHigh = v.rasterHigh := rfl
@[simp] theorem Vic.recomputeBadLine_irqRequestRaster (v : Vic) : (v.recomputeBadLine).irqRequestRaster = v.irqRequestRaster := rfl
@[simp] theorem Vic.recomputeBadLine_vc (v : Vic) : (v.recomputeBadLine).vc = v.vc := rfl
@[simp] theorem Vic.recomputeBadLine_vcbase (v : Vic) : (v.recomputeBadLine).vcbase = v.vcbase := rfl
@[simp] theorem Vic.recomputeBadLine_rc (v : Vic) : (v.recomputeBadLine).rc = v.rc := rfl
@[simp] theorem Vic.recomputeBadLine_vmli (v : Vic) : (v.recomputeBadLine).vmli = v.vmli := rfl
@[simp] theorem Vic.recomputeBadLine_idle (v : Vic) : (v.recomputeBadLine).idle = v.idle := rfl
@[simp] theorem Vic.recomputeBadLine_lineCache (v : Vic) : (v.recomputeBadLine).lineCache = v.lineCache := rfl
@[simp] theorem Vic.recomputeBadLine_ref (v : Vic) : (v.recomputeBadLine).ref = v.ref := rfl
@[simp] theorem Vic.recomputeBadLine_sprites (v : Vic) : (v.recomputeBadLine).sprites = v.sprites := rfl
@[simp] theorem Vic.recomputeBadLine_sprPtr (v : Vic) : (v.recomputeBadLine).sprPtr = v.sprPtr := rfl
@[simp] theorem Vic.recomputeBadLine_regs (v : Vic) : (v.recomputeBadLine).regs = v.regs := rfl

@[simp] theorem Vic.frameStart_phase (v : Vic) : (v.frameStart).phase = v.phase := rfl
@[simp] theorem Vic.frameStart_cycle (v : Vic) : (v.frameStart).cycle = v.cycle := rfl
@[simp] theorem Vic.frameStart_raster (v : Vic) : (v.frameStart).raster = v.raster := rfl
@[simp] theorem Vic.frameStart_den (v : Vic) : (v.frameStart).den = v.den := rfl
@[simp] theorem Vic.frameStart_badLine (v : Vic) : (v.frameStart).badLine = v.badLine := rfl
@[simp] theorem Vic.frameStart_rasterLatch (v : Vic) : (v.frameStart).rasterLatch = v.rasterLatch := rfl
@[simp] theorem Vic.frameStart_rasterLow (v : Vic) : (v.frameStart).rasterLow = v.rasterLow := rfl
@[simp] theorem Vic.frameStart_rasterHigh (v : Vic) : (v.frameStart).rasterHigh = v.rasterHigh := rfl
@[simp] theorem Vic.frameStart_irqRequestRaster (v : Vic) : (v.frameStart).irqRequestRaster = v.irqRequestRaster := rfl
@[simp] theorem Vic.frameStart_vc (v : Vic) : (v.frameStart).vc = v.vc := rfl
@[simp] theorem Vic.frameStart_rc (v : Vic) : (v.frameStart).rc = v.rc := rfl
@[simp] theorem Vic.frameStart_vmli (v : Vic) : (v.frameStart).vmli = v.vmli := rfl
@[simp] theorem Vic.frameStart_idle (v : Vic) : (v.frameStart).idle = v.idle := rfl
@[simp] theorem Vic.frameStart_lineCache (v : Vic) : (v.frameStart).lineCache = v.lineCache := rfl
@[simp] theorem Vic.frameStart_sprites (v : Vic) : (v.frameStart).sprites = v.sprites := rfl
@[simp] theorem Vic.frameStart_sprPtr (v : Vic) : (v.frameStart).sprPtr = v.sprPtr := rfl
@[simp] theorem Vic.frameStart_regs (v : Vic) : (v.frameStart).regs = v.regs := rfl

@[simp] theorem Vic.lineReload_phase (v : Vic) : (v.lineReload).phase = v.phase := rfl
@[simp] theorem Vic.lineReload_cycle (v : Vic) : (v.lineReload).cycle = v.cycle := rfl
@[simp] theorem Vic.lineReload_raster (v : Vic) : (v.lineReload).raster = v.raster := rfl
@[simp] theorem Vic.lineReload_den (v : Vic) : (v.lineReload).den = v.den := rfl
@[simp] theorem Vic.lineReload_badLine (v : Vic) : (v.lineReload).badLine = v.badLine := rfl
@[simp] theorem Vic.lineReload_rasterLatch (v : Vic) : (v.lineReload).rasterLatch = v.rasterLatch := rfl
@[simp] theorem Vic.lineReload_rasterLow (v : Vic) : (v.lineReload).rasterLow = v.rasterLow := rfl
@[simp] theorem Vic.lineReload_rasterHigh (v : Vic) : (v.lineReload).rasterHigh = v.rasterHigh := rfl
@[simp] theorem Vic.lineReload_irqRequestRaster (v : Vic) : (v.lineReload).irqRequestRaster = v.irqRequestRaster := rfl
@[simp] theorem Vic.lineReload_vcbase (v : Vic) : (v.lineReload).vcbase = v.vcbase := rfl
@[simp] theorem Vic.lineReload_idle (v : Vic) : (v.lineReload).idle = v.idle := rfl
@[simp] theorem Vic.lineReload_lineCache (v : Vic) : (v.lineReload).lineCache = v.lineCache := rfl
@[simp] theorem Vic.lineReload_ref (v : Vic) : (v.lineReload).ref = v.ref := rfl
@[simp] theorem Vic.lineReload_sprites (v : Vic) : (v.lineReload).sprites = v.sprites := rfl
@[simp] theorem Vic.lineReload_sprPtr (v : Vic) : (v.lineReload).sprPtr = v.sprPtr := rfl
@[simp] theorem Vic.lineReload_regs (v : Vic) : (v.lineReload).regs = v.regs := rfl

@[simp] theorem Vic.rowAdvance_phase (v : Vic) : (v.rowAdvance).phase = v.phase := rfl
@[simp] theorem Vic.rowAdvance_cycle (v : Vic) : (v.rowAdvance).cycle = v.cycle := rfl
@[simp] theorem Vic.rowAdvance_raster (v : Vic) : (v.rowAdvance).raster = v.raster := rfl
@[simp] theorem Vic.rowAdvance_den (v : Vic) : (v.rowAdvance).den = v.den := rfl
@[simp] theorem Vic.rowAdvance_badLine (v : Vic) : (v.rowAdvance).badLine = v.badLine := rfl
@[simp] theorem Vic.rowAdvance_rasterLatch (v : Vic) : (v.rowAdvance).rasterLatch = v.rasterLatch := rfl
@[simp] theorem Vic.rowAdvance_rasterLow (v : Vic) : (v.rowAdvance).rasterLow = v.rasterLow := rfl
@[simp] theorem Vic.rowAdvance_rasterHigh (v : Vic) : (v.rowAdvance).rasterHigh = v.rasterHigh := rfl
@[simp] theorem Vic.rowAdvance_irqRequestRaster (v : Vic) : (v.rowAdvance).irqRequestRaster = v.irqRequestRaster := rfl
@[simp] theorem Vic.rowAdvance_vc (v : Vic) : (v.rowAdvance).vc = v.vc := rfl
@[simp] theorem Vic.rowAdvance_vmli (v : Vic) : (v.rowAdvance).vmli = v.vmli := rfl
@[simp] theorem Vic.rowAdvance_lineCache (v : Vic) : (v.rowAdvance).lineCache = v.lineCache := rfl
@[simp] theorem Vic.rowAdvance_ref (v : Vic) : (v.rowAdvance).ref = v.ref := rfl
@[simp] theorem Vic.rowAdvance_sprites (v : Vic) : (v.rowAdvance).sprites = v.sprites := rfl
@[simp] theorem Vic.rowAdvance_sprPtr (v : Vic) : (v.rowAdvance).sprPtr = v.sprPtr := rfl
@[simp] theorem Vic.rowAdvance_regs (v : Vic) : (v.rowAdvance).regs = v.regs := rfl

@[simp] theorem Vic.mapSprites_phase (v : Vic) (f : Fin 8 → Sprite → Sprite) : (v.mapSprites f).phase = v.phase := rfl
@[simp] theorem Vic.mapSprites_cycle (v : Vic) (f : Fin 8 → Sprite → Sprite) : (v.mapSprites f).cycle = v.cycle := rfl
@[simp] theorem Vic.mapSprites_raster (v : Vic) (f : Fin 8 → Sprite → Sprite) : (v.mapSprites f).raster = v.raster := rfl
@[simp] theorem Vic.mapSprites_den (v : Vic) (f : Fin 8 → Sprite → Sprite) : (v.mapSprites f).den = v.den := rfl
@[simp] theorem Vic.mapSprites_badLine (v : Vic) (f : Fin 8 → Sprite → Sprite) : (v.mapSprites f).badLine = v.badLine := rfl
@[simp] theorem Vic.mapSprites_rasterLatch (v : Vic) (f : Fin 8 → Sprite → Sprite) : (v.mapSprites f).rasterLatch = v.rasterLatch := rfl
@[simp] theorem Vic.mapSprites_rasterLow (v : Vic) (f : Fin 8 → Sprite → Sprite) : (v.mapSprites f).rasterLow = v.rasterLow := rfl
@[simp] theorem Vic.mapSprites_rasterHigh (v : Vic) (f : Fin 8 → Sprite → Sprite) : (v.mapSprites f).rasterHigh = v.rasterHigh := rfl
@[simp] theorem Vic.mapSprites_irqRequestRaster (v : Vic) (f : Fin 8 → Sprite → Sprite) : (v.mapSprites f).irqRequestRaster = v.irqRequestRaster := rfl
@[simp] theorem Vic.mapSprites_vc (v : Vic) (f : Fin 8 → Sprite → Sprite) : (v.mapSprites f).vc = v.vc := rfl
@[simp] theorem Vic.mapSprites_vcbase (v : Vic) (f : Fin 8 → Sprite → Sprite) : (v.mapSprites f).vcbase = v.vcbase := rfl
@[simp] theorem Vic.mapSprites_rc (v : Vic) (f : Fin 8 → Sprite → Sprite) : (v.mapSprites f).rc = v.rc := rfl
@[simp] theorem Vic.mapSprites_vmli (v : Vic) (f : Fin 8 → Sprite → Sprite) : (v.mapSprites f).vmli = v.vmli := rfl
@[simp] theorem Vic.mapSprites_idle (v : Vic) (f : Fin 8 → Sprite → Sprite) : (v.mapSprites f).idle = v.idle := rfl
@[simp] theorem Vic.mapSprites_lineCache (v : Vic) (f : Fin 8 → Sprite → Sprite) : (v.mapSprites f).lineCache = v.lineCache := rfl
@[simp] theorem Vic.mapSprites_ref (v : Vic) (f : Fin 8 → Sprite → Sprite) : (v.mapSprites f).ref = v.ref := rfl
@[simp] theorem Vic.mapSprites_sprPtr (v : Vic) (f : Fin 8 → Sprite → Sprite) : (v.mapSprites f).sprPtr = v.sprPtr := rfl
@[simp] theorem Vic.mapSprites_regs (v : Vic) (f : Fin 8 → Sprite → Sprite) : (v.mapSprites f).regs = v.regs := rfl

@[simp] theorem Vic.dmaStart_phase (v : Vic) : (v.dmaStart).phase = v.phase := rfl
@[simp] theorem Vic.dmaStart_cycle (v : Vic) : (v.dmaStart).cycle = v.cycle := rfl
@[simp] theorem Vic.dmaStart_raster (v : Vic) : (v.dmaStart).raster = v.raster := rfl
@[simp] theorem Vic.dmaStart_den (v : Vic) : (v.dmaStart).den = v.den := rfl
@[simp] theorem Vic.dmaStart_badLine (v : Vic) : (v.dmaStart).badLine = v.badLine := rfl
@[simp] theorem Vic.dmaStart_rasterLatch (v : Vic) : (v.dmaStart).rasterLatch = v.rasterLatch := rfl
@[simp] theorem Vic.dmaStart_rasterLow (v : Vic) : (v.dmaStart).rasterLow = v.rasterLow := rfl
@[simp] theorem Vic.dmaStart_rasterHigh (v : Vic) : (v.dmaStart).rasterHigh = v.rasterHigh := rfl
@[simp] theorem Vic.dmaStart_irqRequestRaster (v : Vic) : (v.dmaStart).irqRequestRaster = v.irqRequestRaster := rfl
@[simp] theorem Vic.dmaStart_vc (v : Vic) : (v.dmaStart).vc = v.vc := rfl
@[simp] theorem Vic.dmaStart_vcbase (v : Vic) : (v.dmaStart).vcbase = v.vcbase := rfl
@[simp] theorem Vic.dmaStart_rc (v : Vic) : (v.dmaStart).rc = v.rc := rfl
@[simp] theorem Vic.dmaStart_vmli (v : Vic) : (v.dmaStart).vmli = v.vmli := rfl
@[simp] theorem Vic.dmaStart_idle (v : Vic) : (v.dmaStart).idle = v.idle := rfl
@[simp] theorem Vic.dmaStart_lineCache (v : Vic) : (v.dmaStart).lineCache = v.lineCache := rfl
@[simp] theorem Vic.dmaStart_ref (v : Vic) : (v.dmaStart).ref = v.ref := rfl
@[simp] theorem Vic.dmaStart_sprPtr (v : Vic) : (v.dmaStart).sprPtr = v.sprPtr := rfl
@[simp] theorem Vic.dmaStart_regs (v : Vic) : (v.dmaStart).regs = v.regs := rfl

@[simp] theorem Vic.mcbaseFirst_phase (v : Vic) : (v.mcbaseFirst).phase = v.phase := rfl
@[simp] theorem Vic.mcbaseFirst_cycle (v : Vic) : (v.mcbaseFirst).cycle = v.cycle := rfl
@[simp] theorem Vic.mcbaseFirst_raster (v : Vic) : (v.mcbaseFirst).raster = v.raster := rfl
@[simp] theorem Vic.mcbaseFirst_den (v : Vic) : (v.mcbaseFirst).den = v.den := rfl
@[simp] theorem Vic.mcbaseFirst_badLine (v : Vic) : (v.mcbaseFirst).badLine = v.badLine := rfl
@[simp] theorem Vic.mcbaseFirst_rasterLatch (v : Vic) : (v.mcbaseFirst).rasterLatch = v.rasterLatch := rfl
@[simp] theorem Vic.mcbaseFirst_rasterLow (v : Vic) : (v.mcbaseFirst).rasterLow = v.rasterLow := rfl
@[simp] theorem Vic.mcbaseFirst_rasterHigh (v : Vic) : (v.mcbaseFirst).rasterHigh = v.rasterHigh := rfl
@[simp] theorem Vic.mcbaseFirst_irqRequestRaster (v : Vic) : (v.mcbaseFirst).irqRequestRaster = v.irqRequestRaster := rfl
@[simp] theorem Vic.mcbaseFirst_vc (v : Vic) : (v.mcbaseFirst).vc = v.vc := rfl
@[simp] theorem Vic.mcbaseFirst_vcbase (v : Vic) : (v.mcbaseFirst).vcbase = v.vcbase := rfl
@[simp] theorem Vic.mcbaseFirst_rc (v : Vic) : (v.mcbaseFirst).rc = v.rc := rfl
@[simp] theorem Vic.mcbaseFirst_vmli (v : Vic) : (v.mcbaseFirst).vmli = v.vmli := rfl
@[simp] theorem Vic.mcbaseFirst_idle (v : Vic) : (v.mcbaseFirst).idle = v.idle := rfl
@[simp] theorem Vic.mcbaseFirst_lineCache (v : Vic) : (v.mcbaseFirst).lineCache = v.lineCache := rfl
@[simp] theorem Vic.mcbaseFirst_ref (v : Vic) : (v.mcbaseFirst).ref = v.ref := rfl
@[simp] theorem Vic.mcbaseFirst_sprPtr (v : Vic) : (v.mcbaseFirst).sprPtr = v.sprPtr := rfl
@[simp] theorem Vic.mcbaseFirst_regs (v : Vic) : (v.mcbaseFirst).regs = v.regs := rfl

@[simp] theorem Vic.mcbaseSecond_phase (v : Vic) : (v.mcbaseSecond).phase = v.phase := rfl
@[simp] theorem Vic.mcbaseSecond_cycle (v : Vic) : (v.mcbaseSecond).cycle = v.cycle := rfl
@[simp] theorem Vic.mcbaseSecond_raster (v : Vic) : (v.mcbaseSecond).raster = v.raster := rfl
@[simp] theorem Vic.mcbaseSecond_den (v : Vic) : (v.mcbaseSecond).den = v.den := rfl
@[simp] theorem Vic.mcbaseSecond_badLine (v : Vic) : (v.mcbaseSecond).badLine = v.badLine := rfl
@[simp] theorem Vic.mcbaseSecond_rasterLatch (v : Vic) : (v.mcbaseSecond).rasterLatch = v.rasterLatch := rfl
@[simp] theorem Vic.mcbaseSecond_rasterLow (v : Vic) : (v.mcbaseSecond).rasterLow = v.rasterLow := rfl
@[simp] theorem Vic.mcbaseSecond_rasterHigh (v : Vic) : (v.mcbaseSecond).rasterHigh = v.rasterHigh := rfl
@[simp] theorem Vic.mcbaseSecond_irqRequestRaster (v : Vic) : (v.mcbaseSecond).irqRequestRaster = v.irqRequestRaster := rfl
@[simp] theorem Vic.mcbaseSecond_vc (v : Vic) : (v.mcbaseSecond).vc = v.vc := rfl
@[simp] theorem Vic.mcbaseSecond_vcbase (v : Vic) : (v.mcbaseSecond).vcbase = v.vcbase := rfl
@[simp] theorem Vic.mcbaseSecond_rc (v : Vic) : (v.mcbaseSecond).rc = v.rc := rfl
@[simp] theorem Vic.mcbaseSecond_vmli (v : Vic) : (v.mcbaseSecond).vmli = v.vmli := rfl
@[simp] theorem Vic.mcbaseSecond_idle (v : Vic) : (v.mcbaseSecond).idle = v.idle := rfl
@[simp] theorem Vic.mcbaseSecond_lineCache (v : Vic) : (v.mcbaseSecond).lineCache = v.lineCache := rfl
@[simp] theorem Vic.mcbaseSecond_ref (v : Vic) : (v.mcbaseSecond).ref = v.ref := rfl
@[simp] theorem Vic.mcbaseSecond_sprPtr (v : Vic) : (v.mcbaseSecond).sprPtr = v.sprPtr := rfl
@[simp] theorem Vic.mcbaseSecond_regs (v : Vic) : (v.mcbaseSecond).regs = v.regs := rfl

@[simp] theorem Vic.mcReload_phase (v : Vic) : (v.mcReload).phase = v.phase := rfl
@[simp] theorem Vic.mcReload_cycle (v : Vic) : (v.mcReload).cycle = v.cycle := rfl
@[simp] theorem Vic.mcReload_raster (v : Vic) : (v.mcReload).raster = v.raster := rfl
@[simp] theorem Vic.mcReload_den (v : Vic) : (v.mcReload).den = v.den := rfl
@[simp] theorem Vic.mcReload_badLine (v : Vic) : (v.mcReload).badLine = v.badLine := rfl
@[simp] theorem Vic.mcReload_rasterLatch (v : Vic) : (v.mcReload).rasterLatch = v.rasterLatch := rfl
@[simp] theorem Vic.mcReload_rasterLow (v : Vic) : (v.mcReload).rasterLow = v.rasterLow := rfl
@[simp] theorem Vic.mcReload_rasterHigh (v : Vic) : (v.mcReload).rasterHigh = v.rasterHigh := rfl
@[simp] theorem Vic.mcReload_irqRequestRaster (v : Vic) : (v.mcReload).irqRequestRaster = v.irqRequestRaster := rfl
@[simp] theorem Vic.mcReload_vc (v : Vic) : (v.mcReload).vc = v.vc := rfl
@[simp] theorem Vic.mcReload_vcbase (v : Vic) : (v.mcReload).vcbase = v.vcbase := rfl
@[simp] theorem Vic.mcReload_rc (v : Vic) : (v.mcReload).rc = v.rc := rfl
@[simp] theorem Vic.mcReload_vmli (v : Vic) : (v.mcReload).vmli = v.vmli := rfl
@[simp] theorem Vic.mcReload_idle (v : Vic) : (v.mcReload).idle = v.idle := rfl
@[simp] theorem Vic.mcReload_lineCache (v : Vic) : (v.mcReload).lineCache = v.lineCache := rfl
@[simp] theorem Vic.mcReload_ref (v : Vic) : (v.mcReload).ref = v.ref := rfl
@[simp] theorem Vic.mcReload_sprPtr (v : Vic) : (v.mcReload).sprPtr = v.sprPtr := rfl
@[simp] theorem Vic.mcReload_regs (v : Vic) : (v.mcReload).regs = v.regs := rfl

@[simp] theorem Vic.writeYExpand_phase (v : Vic) (value : BitVec 8) : (v.writeYExpand value).phase = v.phase := rfl
@[simp] theorem Vic.writeYExpand_cycle (v : Vic) (value : BitVec 8) : (v.writeYExpand value).cycle = v.cycle := rfl
@[simp] theorem Vic.writeYExpand_raster (v : Vic) (value : BitVec 8) : (v.writeYExpand value).raster = v.raster := rfl
@[simp] theorem Vic.writeYExpand_den (v : Vic) (value : BitVec 8) : (v.writeYExpand value).den = v.den := rfl
@[simp] theorem Vic.writeYExpand_badLine (v : Vic) (value : BitVec 8) : (v.writeYExpand value).badLine = v.badLine := rfl
@[simp] theorem Vic.writeYExpand_rasterLatch (v : Vic) (value : BitVec 8) : (v.writeYExpand value).rasterLatch = v.rasterLatch := rfl
@[simp] theorem Vic.writeYExpand_rasterLow (v : Vic) (value : BitVec 8) : (v.writeYExpand value).rasterLow = v.rasterLow := rfl
@[simp] theorem Vic.writeYExpand_rasterHigh (v : Vic) (value : BitVec 8) : (v.writeYExpand value).rasterHigh = v.rasterHigh := rfl
@[simp] theorem Vic.writeYExpand_irqRequestRaster (v : Vic) (value : BitVec 8) : (v.writeYExpand value).irqRequestRaster = v.irqRequestRaster := rfl
@[simp] theorem Vic.writeYExpand_vc (v : Vic) (value : BitVec 8) : (v.writeYExpand value).vc = v.vc := rfl
@[simp] theorem Vic.writeYExpand_vcbase (v : Vic) (value : BitVec 8) : (v.writeYExpand value).vcbase = v.vcbase := rfl
@[simp] theorem Vic.writeYExpand_rc (v : Vic) (value : BitVec 8) : (v.writeYExpand value).rc = v.rc := rfl
@[simp] theorem Vic.writeYExpand_vmli (v : Vic) (value : BitVec 8) : (v.writeYExpand value).vmli = v.vmli := rfl
@[simp] theorem Vic.writeYExpand_idle (v : Vic) (value : BitVec 8) : (v.writeYExpand value).idle = v.idle := rfl
@[simp] theorem Vic.writeYExpand_lineCache (v : Vic) (value : BitVec 8) : (v.writeYExpand value).lineCache = v.lineCache := rfl
@[simp] theorem Vic.writeYExpand_ref (v : Vic) (value : BitVec 8) : (v.writeYExpand value).ref = v.ref := rfl
@[simp] theorem Vic.writeYExpand_sprPtr (v : Vic) (value : BitVec 8) : (v.writeYExpand value).sprPtr = v.sprPtr := rfl

@[simp] theorem Vic.cacheStore_phase (v : Vic) (i : Fin 40) (data : BitVec 12) : (v.cacheStore i data).phase = v.phase := rfl
@[simp] theorem Vic.cacheStore_cycle (v : Vic) (i : Fin 40) (data : BitVec 12) : (v.cacheStore i data).cycle = v.cycle := rfl
@[simp] theorem Vic.cacheStore_raster (v : Vic) (i : Fin 40) (data : BitVec 12) : (v.cacheStore i data).raster = v.raster := rfl
@[simp] theorem Vic.cacheStore_den (v : Vic) (i : Fin 40) (data : BitVec 12) : (v.cacheStore i data).den = v.den := rfl
@[simp] theorem Vic.cacheStore_badLine (v : Vic) (i : Fin 40) (data : BitVec 12) : (v.cacheStore i data).badLine = v.badLine := rfl
@[simp] theorem Vic.cacheStore_rasterLatch (v : Vic) (i : Fin 40) (data : BitVec 12) : (v.cacheStore i data).rasterLatch = v.rasterLatch := rfl
@[simp] theorem Vic.cacheStore_rasterLow (v : Vic) (i : Fin 40) (data : BitVec 12) : (v.cacheStore i data).rasterLow = v.rasterLow := rfl
@[simp] theorem Vic.cacheStore_rasterHigh (v : Vic) (i : Fin 40) (data : BitVec 12) : (v.cacheStore i data).rasterHigh = v.rasterHigh := rfl
@[simp] theorem Vic.cacheStore_irqRequestRaster (v : Vic) (i : Fin 40) (data : BitVec 12) : (v.cacheStore i data).irqRequestRaster = v.irqRequestRaster := rfl
@[simp] theorem Vic.cacheStore_vcbase (v : Vic) (i : Fin 40) (data : BitVec 12) : (v.cacheStore i data).vcbase = v.vcbase := rfl
@[simp] theorem Vic.cacheStore_rc (v : Vic) (i : Fin 40) (data : BitVec 12) : (v.cacheStore i data).rc = v.rc := rfl
@[simp] theorem Vic.cacheStore_idle (v : Vic) (i : Fin 40) (data : BitVec 12) : (v.cacheStore i data).idle = v.idle := rfl
@[simp] theorem Vic.cacheStore_ref (v : Vic) (i : Fin 40) (data : BitVec 12) : (v.cacheStore i data).ref = v.ref := rfl
@[simp] theorem Vic.cacheStore_sprites (v : Vic) (i : Fin 40) (data : BitVec 12) : (v.cacheStore i data).sprites = v.sprites := rfl
@[simp] theorem Vic.cacheStore_sprPtr (v : Vic) (i : Fin 40) (data : BitVec 12) : (v.cacheStore i data).sprPtr = v.sprPtr := rfl
@[simp] theorem Vic.cacheStore_regs (v : Vic) (i : Fin 40) (data : BitVec 12) : (v.cacheStore i data).regs = v.regs := rfl

@[simp] theorem Vic.countSprite_phase (v : Vic) (n : Fin 8) : (v.countSprite n).phase = v.phase := rfl
@[simp] theorem Vic.countSprite_cycle (v : Vic) (n : Fin 8) : (v.countSprite n).cycle = v.cycle := rfl
@[simp] theorem Vic.countSprite_raster (v : Vic) (n : Fin 8) : (v.countSprite n).raster = v.raster := rfl
@[simp] theorem Vic.countSprite_den (v : Vic) (n : Fin 8) : (v.countSprite n).den = v.den := rfl
@[simp] theorem Vic.countSprite_badLine (v : Vic) (n : Fin 8) : (v.countSprite n).badLine = v.badLine := rfl
@[simp] theorem Vic.countSprite_rasterLatch (v : Vic) (n : Fin 8) : (v.countSprite n).rasterLatch = v.rasterLatch := rfl
@[simp] theorem Vic.countSprite_rasterLow (v : Vic) (n : Fin 8) : (v.countSprite n).rasterLow = v.rasterLow := rfl
@[simp] theorem Vic.countSprite_rasterHigh (v : Vic) (n : Fin 8) : (v.countSprite n).rasterHigh = v.rasterHigh := rfl
@[simp] theorem Vic.countSprite_irqRequestRaster (v : Vic) (n : Fin 8) : (v.countSprite n).irqRequestRaster = v.irqRequestRaster := rfl
@[simp] theorem Vic.countSprite_vc (v : Vic) (n : Fin 8) : (v.countSprite n).vc = v.vc := rfl
@[simp] theorem Vic.countSprite_vcbase (v : Vic) (n : Fin 8) : (v.countSprite n).vcbase = v.vcbase := rfl
@[simp] theorem Vic.countSprite_rc (v : Vic) (n : Fin 8) : (v.countSprite n).rc = v.rc := rfl
@[simp] theorem Vic.countSprite_vmli (v : Vic) (n : Fin 8) : (v.countSprite n).vmli = v.vmli := rfl
@[simp] theorem Vic.countSprite_idle (v : Vic) (n : Fin 8) : (v.countSprite n).idle = v.idle := rfl
@[simp] theorem Vic.countSprite_lineCache (v : Vic) (n : Fin 8) : (v.countSprite n).lineCache = v.lineCache := rfl
@[simp] theorem Vic.countSprite_ref (v : Vic) (n : Fin 8) : (v.countSprite n).ref = v.ref := rfl
@[simp] theorem Vic.countSprite_sprPtr (v : Vic) (n : Fin 8) : (v.countSprite n).sprPtr = v.sprPtr := rfl
@[simp] theorem Vic.countSprite_regs (v : Vic) (n : Fin 8) : (v.countSprite n).regs = v.regs := rfl

@[simp] theorem Vic.advance_den (v : Vic) : (v.advance).den = v.den := by unfold Vic.advance; split <;> [rfl; (split <;> rfl)]
@[simp] theorem Vic.advance_badLine (v : Vic) : (v.advance).badLine = v.badLine := by unfold Vic.advance; split <;> [rfl; (split <;> rfl)]
@[simp] theorem Vic.advance_rasterLatch (v : Vic) : (v.advance).rasterLatch = v.rasterLatch := by unfold Vic.advance; split <;> [rfl; (split <;> rfl)]
@[simp] theorem Vic.advance_rasterLow (v : Vic) : (v.advance).rasterLow = v.rasterLow := by unfold Vic.advance; split <;> [rfl; (split <;> rfl)]
@[simp] theorem Vic.advance_rasterHigh (v : Vic) : (v.advance).rasterHigh = v.rasterHigh := by unfold Vic.advance; split <;> [rfl; (split <;> rfl)]
@[simp] theorem Vic.advance_irqRequestRaster (v : Vic) : (v.advance).irqRequestRaster = v.irqRequestRaster := by unfold Vic.advance; split <;> [rfl; (split <;> rfl)]
@[simp] theorem Vic.advance_vc (v : Vic) : (v.advance).vc = v.vc := by unfold Vic.advance; split <;> [rfl; (split <;> rfl)]
@[simp] theorem Vic.advance_vcbase (v : Vic) : (v.advance).vcbase = v.vcbase := by unfold Vic.advance; split <;> [rfl; (split <;> rfl)]
@[simp] theorem Vic.advance_rc (v : Vic) : (v.advance).rc = v.rc := by unfold Vic.advance; split <;> [rfl; (split <;> rfl)]
@[simp] theorem Vic.advance_vmli (v : Vic) : (v.advance).vmli = v.vmli := by unfold Vic.advance; split <;> [rfl; (split <;> rfl)]
@[simp] theorem Vic.advance_idle (v : Vic) : (v.advance).idle = v.idle := by unfold Vic.advance; split <;> [rfl; (split <;> rfl)]
@[simp] theorem Vic.advance_lineCache (v : Vic) : (v.advance).lineCache = v.lineCache := by unfold Vic.advance; split <;> [rfl; (split <;> rfl)]
@[simp] theorem Vic.advance_ref (v : Vic) : (v.advance).ref = v.ref := by unfold Vic.advance; split <;> [rfl; (split <;> rfl)]
@[simp] theorem Vic.advance_sprites (v : Vic) : (v.advance).sprites = v.sprites := by unfold Vic.advance; split <;> [rfl; (split <;> rfl)]
@[simp] theorem Vic.advance_sprPtr (v : Vic) : (v.advance).sprPtr = v.sprPtr := by unfold Vic.advance; split <;> [rfl; (split <;> rfl)]
@[simp] theorem Vic.advance_regs (v : Vic) : (v.advance).regs = v.regs := by unfold Vic.advance; split <;> [rfl; (split <;> rfl)]

@[simp] theorem Vic.sampleDen_phase (v : Vic) : (v.sampleDen).phase = v.phase := by unfold Vic.sampleDen; split <;> rfl
@[simp] theorem Vic.sampleDen_cycle (v : Vic) : (v.sampleDen).cycle = v.cycle := by unfold Vic.sampleDen; split <;> rfl
@[simp] theorem Vic.sampleDen_raster (v : Vic) : (v.sampleDen).raster = v.raster := by unfold Vic.sampleDen; split <;> rfl
@[simp] theorem Vic.sampleDen_badLine (v : Vic) : (v.sampleDen).badLine = v.badLine := by unfold Vic.sampleDen; split <;> rfl
@[simp] theorem Vic.sampleDen_rasterLatch (v : Vic) : (v.sampleDen).rasterLatch = v.rasterLatch := by unfold Vic.sampleDen; split <;> rfl
@[simp] theorem Vic.sampleDen_rasterLow (v : Vic) : (v.sampleDen).rasterLow = v.rasterLow := by unfold Vic.sampleDen; split <;> rfl
@[simp] theorem Vic.sampleDen_rasterHigh (v : Vic) : (v.sampleDen).rasterHigh = v.rasterHigh := by unfold Vic.sampleDen; split <;> rfl
@[simp] theorem Vic.sampleDen_irqRequestRaster (v : Vic) : (v.sampleDen).irqRequestRaster = v.irqRequestRaster := by unfold Vic.sampleDen; split <;> rfl
@[simp] theorem Vic.sampleDen_vc (v : Vic) : (v.sampleDen).vc = v.vc := by unfold Vic.sampleDen; split <;> rfl
@[simp] theorem Vic.sampleDen_vcbase (v : Vic) : (v.sampleDen).vcbase = v.vcbase := by unfold Vic.sampleDen; split <;> rfl
@[simp] theorem Vic.sampleDen_rc (v : Vic) : (v.sampleDen).rc = v.rc := by unfold Vic.sampleDen; split <;> rfl
@[simp] theorem Vic.sampleDen_vmli (v : Vic) : (v.sampleDen).vmli = v.vmli := by unfold Vic.sampleDen; split <;> rfl
@[simp] theorem Vic.sampleDen_idle (v : Vic) : (v.sampleDen).idle = v.idle := by unfold Vic.sampleDen; split <;> rfl
@[simp] theorem Vic.sampleDen_lineCache (v : Vic) : (v.sampleDen).lineCache = v.lineCache := by unfold Vic.sampleDen; split <;> rfl
@[simp] theorem Vic.sampleDen_ref (v : Vic) : (v.sampleDen).ref = v.ref := by unfold Vic.sampleDen; split <;> rfl
@[simp] theorem Vic.sampleDen_sprites (v : Vic) : (v.sampleDen).sprites = v.sprites := by unfold Vic.sampleDen; split <;> rfl
@[simp] theorem Vic.sampleDen_sprPtr (v : Vic) : (v.sampleDen).sprPtr = v.sprPtr := by unfold Vic.sampleDen; split <;> rfl
@[simp] theorem Vic.sampleDen_regs (v : Vic) : (v.sampleDen).regs = v.regs := by unfold Vic.sampleDen; split <;> rfl

@[simp] theorem Vic.leaveIdle_phase (v : Vic) : (v.leaveIdle).phase = v.phase := by unfold Vic.leaveIdle; split <;> rfl
@[simp] theorem Vic.leaveIdle_cycle (v : Vic) : (v.leaveIdle).cycle = v.cycle := by unfold Vic.leaveIdle; split <;> rfl
@[simp] theorem Vic.leaveIdle_raster (v : Vic) : (v.leaveIdle).raster = v.raster := by unfold Vic.leaveIdle; split <;> rfl
@[simp] theorem Vic.leaveIdle_den (v : Vic) : (v.leaveIdle).den = v.den := by unfold Vic.leaveIdle; split <;> rfl
@[simp] theorem Vic.leaveIdle_badLine (v : Vic) : (v.leaveIdle).badLine = v.badLine := by unfold Vic.leaveIdle; split <;> rfl
@[simp] theorem Vic.leaveIdle_rasterLatch (v : Vic) : (v.leaveIdle).rasterLatch = v.rasterLatch := by unfold Vic.leaveIdle; split <;> rfl
@[simp] theorem Vic.leaveIdle_rasterLow (v : Vic) : (v.leaveIdle).rasterLow = v.rasterLow := by unfold Vic.leaveIdle; split <;> rfl
@[simp] theorem Vic.leaveIdle_rasterHigh (v : Vic) : (v.leaveIdle).rasterHigh = v.rasterHigh := by unfold Vic.leaveIdle; split <;> rfl
@[simp] theorem Vic.leaveIdle_irqRequestRaster (v : Vic) : (v.leaveIdle).irqRequestRaster = v.irqRequestRaster := by unfold Vic.leaveIdle; split <;> rfl
@[simp] theorem Vic.leaveIdle_vc (v : Vic) : (v.leaveIdle).vc = v.vc := by unfold Vic.leaveIdle; split <;> rfl
@[simp] theorem Vic.leaveIdle_vcbase (v : Vic) : (v.leaveIdle).vcbase = v.vcbase := by unfold Vic.leaveIdle; split <;> rfl
@[simp] theorem Vic.leaveIdle_rc (v : Vic) : (v.leaveIdle).rc = v.rc := by unfold Vic.leaveIdle; split <;> rfl
@[simp] theorem Vic.leaveIdle_vmli (v : Vic) : (v.leaveIdle).vmli = v.vmli := by unfold Vic.leaveIdle; split <;> rfl
@[simp] theorem Vic.leaveIdle_lineCache (v : Vic) : (v.leaveIdle).lineCache = v.lineCache := by unfold Vic.leaveIdle; split <;> rfl
@[simp] theorem Vic.leaveIdle_ref (v : Vic) : (v.leaveIdle).ref = v.ref := by unfold Vic.leaveIdle; split <;> rfl
@[simp] theorem Vic.leaveIdle_sprites (v : Vic) : (v.leaveIdle).sprites = v.sprites := by unfold Vic.leaveIdle; split <;> rfl
@[simp] theorem Vic.leaveIdle_sprPtr (v : Vic) : (v.leaveIdle).sprPtr = v.sprPtr := by unfold Vic.leaveIdle; split <;> rfl
@[simp] theorem Vic.leaveIdle_regs (v : Vic) : (v.leaveIdle).regs = v.regs := by unfold Vic.leaveIdle; split <;> rfl

end Sys2Proof.Machine
end

