-- ==== Sys2Proof/Laws/Ops.lean ====
section
/-! SUPPORT. What the shared operations can do: sequencing, and the relations between a state and what a computation answers
from it that every operation respects on every board, whatever its listeners do. -/
namespace Sys2Proof.Machine

/-! ## Sequencing -/

@[simp] theorem andThen_next (s : State) (f : State → Result) : andThen (.next s) f = f s := rfl

theorem andThen_eq_next {r : Result} {f : State → Result} {u : State} :
    andThen r f = .next u ↔ ∃ s, r = .next s ∧ f s = .next u := by
  cases r <;> simp [andThen]

theorem andThen_assoc (r : Result) (f g : State → Result) :
    andThen (andThen r f) g = andThen r (fun s => andThen (f s) g) := by cases r <;> rfl

@[simp] theorem violate_ne_next (v : Violation) (u : State) : violate v ≠ .next u := by simp [violate]

theorem Host_next_inj {a b : State} : (Host.Outcome.next a : Result) = .next b ↔ a = b := by simp

/-- The pin and trace operations of the interface (R65). -/
def isSubstrateCmd : Instr → Bool
  | .pinNew _ _ => true
  | .pinSetLevel _ _ => true
  | .pinSetMode _ _ => true
  | .pinPullUp _ => true
  | .pinPullDown _ => true
  | .pinNoPull _ => true
  | .pinAddListener _ _ => true
  | .pinGetLevel _ => true
  | .pinGetMode _ => true
  | .pinSet _ => true
  | .pinClear _ => true
  | .pinFloat _ => true
  | .pinToggle _ => true
  | .traceNew _ => true
  | .traceAddPin _ _ => true
  | .traceSetLevel _ _ => true
  | .traceGetLevel _ => true
  | .tracePullUp _ => true
  | .tracePullDown _ => true
  | .traceNoPull _ => true
  | .traceSet _ => true
  | .traceClear _ => true
  | .traceFloat _ => true
  | .traceToggle _ => true
  | _ => false

/-! ## The updates that operations make -/

/-- One update that a pin or trace operation makes between two points at which a listener may run (R80 to R107), with what the
operation knows of the state when it makes it. -/
inductive Move : State → State → Prop
  /-- an output is handed out (log 7) -/
  | emit (s : State) (e : Event) : Move s (s.emit e)
  /-- PIN_NEW (R84) -/
  | pinNew {s : State} {p : Nat} (ident : Ident) (m : Mode) : s.pins.has p = false → Move s (s.setPin p (Pin.fresh ident m))
  /-- TRACE_NEW (R97) -/
  | traceNew {s : State} {t : Nat} : s.traces.has t = false → Move s (s.setTrace t Trace.fresh)
  /-- a pin adopts its trace's level (R83) -/
  | adopts {s : State} {p t : Nat} {pin : Pin} {tr : Trace} : s.pins.find p = some pin → pin.mode.inCap = true →
      pin.trace = some t → s.traces.find t = some tr → Move s (s.setPin p { pin with level := adopt pin tr.level })
  /-- a pin on no trace takes a level or a mode (R85, R86) -/
  | alone {s : State} {p : Nat} {pin : Pin} (m : Mode) (v : Signal) : s.pins.find p = some pin → pin.trace = none →
      Move s (s.setPin p { pin with mode := m, level := v })
  /-- a pin that stops driving nothing, or never drove, takes a mode (R86) -/
  | modeQuiet {s : State} {p t : Nat} {pin : Pin} {m : Mode} : s.pins.find p = some pin → pin.trace = some t →
      m.outCap = false → (pin.mode.outCap = false ∨ pin.level = .floating) → Move s (s.setPin p { pin with mode := m })
  /-- a pin's pull (R87 to R89) -/
  | pull {s : State} {p : Nat} {pin : Pin} (pull : Pull) : s.pins.find p = some pin → Move s (s.setPin p { pin with pull := pull })
  /-- PIN_ADD_LISTENER (R90) -/
  | listener {s : State} {p : Nat} {pin : Pin} (l : Nat) : s.pins.find p = some pin →
      Move s (s.setPin p { pin with listeners := pin.listeners ++ [l] })
  /-- a pin on a trace takes a level or a mode, and its trace is resolved (R82, R85, R86) -/
  | driven {s : State} {p t : Nat} {pin : Pin} {tr : Trace} (m : Mode) (v w : Signal) : s.pins.find p = some pin →
      pin.trace = some t → s.traces.find t = some tr →
      Move s ((s.setPin p { pin with mode := m, level := v }).setTrace t
        { tr with level := resolve (s.setPin p { pin with mode := m, level := v }) tr w })
  /-- a trace takes a pull and is resolved (R82, R101 to R103); its own pull where it is only resolved (R99) -/
  | resolves {s : State} {t : Nat} {tr : Trace} (pull : Pull) (w : Signal) : s.traces.find t = some tr →
      Move s (s.setTrace t { tr with pull := pull, level := resolve s { tr with pull := pull } w })
  /-- a pin that drives joins a trace, which is resolved (R98) -/
  | joinsDriving {s : State} {p t : Nat} {pin : Pin} {tr : Trace} (w : Signal) : s.pins.find p = some pin →
      s.traces.find t = some tr → p ∉ tr.members → pin.trace = none ∨ pin.trace = some t →
      Move s (((s.setTrace t { tr with members := tr.members ++ [p] }).setPin p { pin with trace := some t }).setTrace t
        { tr with members := tr.members ++ [p]
                  level := resolve ((s.setTrace t { tr with members := tr.members ++ [p] }).setPin p
                    { pin with trace := some t }) { tr with members := tr.members ++ [p] } w })
  /-- a pin that cannot drive joins a trace (R98) -/
  | joins {s : State} {p t : Nat} {pin : Pin} {tr : Trace} : s.pins.find p = some pin → s.traces.find t = some tr →
      p ∉ tr.members → pin.trace = none ∨ pin.trace = some t → pin.mode.outCap = false →
      Move s ((s.setTrace t { tr with members := tr.members ++ [p] }).setPin p { pin with trace := some t })

/-- One update that the half-cycle step or the register side makes to the block (R121 to R126, R144, R145, R155, R156, R204,
R232 to R234). -/
inductive VicMove : Vic → Vic → Prop
  | advance (v : Vic) : VicMove v v.advance
  | publish (v : Vic) : VicMove v v.publish
  | sampleDen (v : Vic) : VicMove v v.sampleDen
  | request (v : Vic) (b : Bool) : VicMove v { v with irqRequestRaster := b }
  | settle (v : Vic) : VicMove v v.settle
  | refresh (v : Vic) : VicMove v { v with ref := v.ref - 1 }
  | cacheStore (v : Vic) (h : v.vmli.toNat < 40) (data : BitVec 12) : VicMove v (v.cacheStore ⟨v.vmli.toNat, h⟩ data)
  | pointer (v : Vic) (x : BitVec 8) : VicMove v { v with sprPtr := x }
  | countSprite (v : Vic) (n : Fin 8) : VicMove v (v.countSprite n)
  | regs (v : Vic) (r : Regs) : VicMove v { v with regs := r }
  | writeYExpand (v : Vic) (x : BitVec 8) : VicMove v (v.writeYExpand x)
  | latch (v : Vic) (x : BitVec 9) : VicMove v { v with rasterLatch := x }

/-! ## Relations that every operation respects -/

/-- A relation between states is transitive. -/
abbrev Composes (R : State → State → Prop) : Prop := ∀ s t u, R s t → R t u → R s u

/-- A relation between the state before and the state after that is reflexive, transitive, and holds of the updates that the
substrate makes. -/
structure Respects (R : State → State → Prop) : Prop where
  refl  : ∀ s, R s s
  trans : Composes R
  move  : ∀ {s u}, Move s u → R s u

/-- One that also holds of the updates that the VIC block makes. -/
structure RespectsVic (R : State → State → Prop) : Prop extends Respects R where
  vic  : ∀ s {v}, VicMove s.vic v → R s (s.setVic v)
  free : ∀ s, R s s.drawFree

/-- A computation never refuses, and where it answers a next state that state is related to `s`. -/
def Answers (R : State → State → Prop) (s : State) (r : Result) : Prop :=
  match r with
  | .next u => R s u
  | .fault _ => True
  | .refused _ => False

theorem Answers.next {R : State → State → Prop} {s u : State} {r : Result} (h : Answers R s r) (hr : r = .next u) : R s u := by
  subst hr; exact h

theorem Answers.not_refused {R : State → State → Prop} {s : State} {r : Result} (h : Answers R s r) (x : Refusal) :
    r ≠ .refused x := by
  rintro rfl; exact h

@[simp] theorem answers_violate (R : State → State → Prop) (s : State) (v : Violation) : Answers R s (violate v) := trivial

/-- The invoker respects a relation. -/
abbrev InvRespects (R : State → State → Prop) (inv : Invoker) : Prop := ∀ l p s, Answers R s (inv l p s)

/-- The pin and trace operations that change a board, under an invoker: each answers in a relation. -/
structure OpsAnswer (R : State → State → Prop) (inv : Invoker) : Prop where
  pinNew      : ∀ p m s, Answers R s (opPinNew p m s)
  setLevel    : ∀ p v s, Answers R s (pinSetLevel inv p v s)
  setMode     : ∀ p m s, Answers R s (opPinSetMode inv p m s)
  pinPull     : ∀ p pull s, Answers R s (opPinPull inv p pull s)
  addListener : ∀ p l s, Answers R s (opPinAddListener p l s)
  traceNew    : ∀ t s, Answers R s (opTraceNew t s)
  addPin      : ∀ t p s, Answers R s (opTraceAddPin inv t p s)
  tracePull   : ∀ t pull s, Answers R s (opTracePull inv t pull s)
  update      : ∀ p s, Answers R s (updateLevel inv p s)
  resolve     : ∀ t v s, Answers R s (resolveAndPush inv t v s)

/-- A relation in which every pin and trace operation answers, as soon as the listeners' own operations do. -/
structure Closed (R : State → State → Prop) : Prop where
  refl  : ∀ s, R s s
  trans : Composes R
  emit  : ∀ s e, R s (s.emit e)
  ops   : ∀ {inv}, InvRespects R inv → OpsAnswer R inv

/-- One that also holds of the updates that the VIC block makes. -/
structure ClosedVic (R : State → State → Prop) : Prop extends Closed R where
  vic  : ∀ s {v}, VicMove s.vic v → R s (s.setVic v)
  free : ∀ s, R s s.drawFree

section
variable {R : State → State → Prop} {inv : Invoker}

theorem Answers.after (hR : Composes R) {s t : State} {r : Result} (h : R s t) (h' : Answers R t r) :
    Answers R s r := by
  cases r with
  | next u => exact hR _ _ _ h h'
  | fault x => trivial
  | refused x => exact h'

theorem Answers.andThen (hR : Composes R) {s : State} {r : Result} {f : State → Result} (h : Answers R s r)
    (h' : ∀ t, Answers R t (f t)) : Answers R s (andThen r f) := by
  cases r with
  | next t => exact Answers.after hR h (h' t)
  | fault x => trivial
  | refused x => exact h

theorem invokeAll_answers (hR : Respects R) (hi : InvRespects R inv) (p : Nat) :
    ∀ ls s, Answers R s (invokeAll inv p ls s)
  | [], s => hR.refl s
  | l :: ls, s => Answers.andThen hR.trans (hi l p s) (fun t => invokeAll_answers hR hi p ls t)

theorem updateLevel_answers (hR : Respects R) (hi : InvRespects R inv) (p : Nat) (s : State) :
    Answers R s (updateLevel inv p s) := by
  unfold updateLevel
  split
  · trivial
  · rename_i pin hp
    split
    · rename_i hm
      split
      · exact hR.refl s
      · rename_i t ht
        split
        · trivial
        · rename_i tr htr
          split
          · exact hR.refl s
          · exact Answers.after hR.trans (hR.move (.adopts hp hm ht htr)) (invokeAll_answers hR hi _ _ _)
    · exact hR.refl s

theorem updateAll_answers (hR : Respects R) (hi : InvRespects R inv) : ∀ ps s, Answers R s (updateAll inv ps s)
  | [], s => hR.refl s
  | p :: ps, s => Answers.andThen hR.trans (updateLevel_answers hR hi p s) (fun t => updateAll_answers hR hi ps t)

theorem resolveAndPush_answers (hR : Respects R) (hi : InvRespects R inv) (t : Nat) (v : Signal) (s : State) :
    Answers R s (resolveAndPush inv t v s) := by
  unfold resolveAndPush
  split
  · trivial
  · rename_i tr htr
    exact Answers.after hR.trans (hR.move (.resolves tr.pull v htr)) (updateAll_answers hR hi _ _)

/-- A pin takes a level or a mode, and its trace is resolved and pushed (R82, R85, R86). -/
theorem drives_answers (hR : Respects R) (hi : InvRespects R inv) {p t : Nat} {pin : Pin} (m : Mode) (v w : Signal) {s : State}
    (hp : s.pins.find p = some pin) (ht : pin.trace = some t) :
    Answers R s (resolveAndPush inv t w (s.setPin p { pin with mode := m, level := v })) := by
  unfold resolveAndPush
  split
  · trivial
  · rename_i tr htr
    exact Answers.after hR.trans (hR.move (.driven m v w hp ht htr)) (updateAll_answers hR hi _ _)

theorem pinSetLevel_answers (hR : Respects R) (hi : InvRespects R inv) (p : Nat) (v : Signal) (s : State) :
    Answers R s (pinSetLevel inv p v s) := by
  unfold pinSetLevel
  split
  · trivial
  · rename_i pin hp
    split
    · split
      · rename_i ht; exact hR.move (.alone pin.mode v hp ht)
      · rename_i t ht; exact drives_answers hR hi pin.mode v _ hp ht
    · exact hR.refl s

theorem opPinNew_answers (hR : Respects R) (p : Nat) (m : Mode) (s : State) : Answers R s (opPinNew p m s) := by
  unfold opPinNew
  split
  · trivial
  · rename_i h; exact hR.move (.pinNew _ m (by simpa using h))

theorem opPinSetMode_answers (hR : Respects R) (hi : InvRespects R inv) (p : Nat) (m : Mode) (s : State) :
    Answers R s (opPinSetMode inv p m s) := by
  unfold opPinSetMode
  split
  · trivial
  · rename_i pin hp
    split
    · exact hR.refl s
    · split
      · rename_i ht; exact hR.move (.alone m pin.level hp ht)
      · rename_i t ht
        split
        · exact drives_answers hR hi m pin.level _ hp ht
        · rename_i hm
          split
          · exact drives_answers hR hi m pin.level _ hp ht
          · rename_i hq
            refine Answers.after hR.trans (hR.move (.modeQuiet hp ht (by simpa using hm) ?_)) (updateLevel_answers hR hi _ _)
            by_cases h : pin.mode.outCap = true
            · exact .inr (Classical.not_not.mp fun k => hq ⟨h, k⟩)
            · exact .inl (by simpa using h)

theorem opPinPull_answers (hR : Respects R) (hi : InvRespects R inv) (p : Nat) (pull : Pull) (s : State) :
    Answers R s (opPinPull inv p pull s) := by
  unfold opPinPull
  split
  · trivial
  · rename_i pin hp
    split
    · exact hR.move (.pull pull hp)
    · exact Answers.after hR.trans (hR.move (.pull pull hp)) (updateLevel_answers hR hi _ _)

theorem opPinAddListener_answers (hR : Respects R) (p l : Nat) (s : State) : Answers R s (opPinAddListener p l s) := by
  unfold opPinAddListener
  split
  · trivial
  · rename_i pin hp; exact hR.move (.listener l hp)

theorem opTraceNew_answers (hR : Respects R) (t : Nat) (s : State) : Answers R s (opTraceNew t s) := by
  unfold opTraceNew
  split
  · trivial
  · rename_i h; exact hR.move (.traceNew (by simpa using h))

theorem joinTrace_answers (hR : Respects R) (hi : InvRespects R inv) {t p : Nat} {tr : Trace} {pin : Pin} {s : State}
    (hp : s.pins.find p = some pin) (ht : s.traces.find t = some tr) (hm : p ∉ tr.members)
    (hpt : pin.trace = none ∨ pin.trace = some t) : Answers R s (joinTrace inv t p tr pin s) := by
  unfold joinTrace
  split
  · unfold resolveAndPush
    simp only [State.setPin_traces, State.setTrace_traces, Arena.find_put_same]
    exact Answers.after hR.trans (hR.move (.joinsDriving _ hp ht hm hpt)) (updateAll_answers hR hi _ _)
  · rename_i h
    exact Answers.after hR.trans (hR.move (.joins hp ht hm hpt (by simpa using h))) (updateLevel_answers hR hi _ _)

theorem opTraceAddPin_answers (hR : Respects R) (hi : InvRespects R inv) (t p : Nat) (s : State) :
    Answers R s (opTraceAddPin inv t p s) := by
  unfold opTraceAddPin
  split
  · trivial
  · rename_i tr ht
    split
    · trivial
    · rename_i pin hp
      split
      · exact hR.refl s
      · rename_i hm
        split
        · rename_i hn; exact joinTrace_answers hR hi hp ht hm (.inl hn)
        · rename_i t' ht'
          split
          · rename_i e; exact joinTrace_answers hR hi hp ht hm (.inr (e ▸ ht'))
          · trivial

theorem State.setTrace_setTrace (s : State) (t : Nat) (tr tr' : Trace) : (s.setTrace t tr).setTrace t tr' = s.setTrace t tr' := by
  unfold State.setTrace; simp only [Arena.put_put]

theorem opTracePull_answers (hR : Respects R) (hi : InvRespects R inv) (t : Nat) (pull : Pull) (s : State) :
    Answers R s (opTracePull inv t pull s) := by
  unfold opTracePull
  split
  · trivial
  · rename_i tr ht
    unfold resolveAndPush
    simp only [State.setTrace_traces, Arena.find_put_same, State.setTrace_setTrace]
    exact Answers.after hR.trans (hR.move (.resolves pull .floating ht)) (updateAll_answers hR hi _ _)

/-- A relation that every update respects is one in which every operation answers. -/
theorem Respects.closed (hR : Respects R) : Closed R where
  refl := hR.refl
  trans := hR.trans
  emit s e := hR.move (.emit s e)
  ops hi :=
    { pinNew := opPinNew_answers hR
      setLevel := pinSetLevel_answers hR hi
      setMode := opPinSetMode_answers hR hi
      pinPull := opPinPull_answers hR hi
      addListener := opPinAddListener_answers hR
      traceNew := opTraceNew_answers hR
      addPin := opTraceAddPin_answers hR hi
      tracePull := opTracePull_answers hR hi
      update := updateLevel_answers hR hi
      resolve := resolveAndPush_answers hR hi }

theorem RespectsVic.closedVic (hR : RespectsVic R) : ClosedVic R where
  toClosed := hR.toRespects.closed
  vic := hR.vic
  free := hR.free

/-! ### The half-cycle step and the rest, on closed relations -/

theorem setAddressPins_answers (hR : Closed R) (hi : InvRespects R inv) (v : Fin 14 → Signal) :
    ∀ is s, Answers R s (setAddressPins inv v is s)
  | [], s => hR.refl s
  | _ :: is, s => Answers.andThen hR.trans ((hR.ops hi).setLevel _ _ s) (fun t => setAddressPins_answers hR hi v is t)

theorem busRead_answers (hR : Closed R) (hi : InvRespects R inv) {a : BitVec 14} {k : State → BitVec 12 → Result}
    {s : State} (hk : ∀ t d, Answers R t (k t d)) : Answers R s (busRead inv a s k) :=
  Answers.andThen hR.trans (setAddressPins_answers hR hi _ _ s) (fun t => hk t _)

theorem record_respects (hR : Closed R) (s : State) (sl : Slot) (ba aec : Signal) (acc : AccessType)
    (a : Option (BitVec 14)) (d : Option (BitVec 12)) (b : Bool) : R s (s.record sl ba aec acc a d b) := hR.emit s _

theorem vicRecord_respects (hR : ClosedVic R) (s : State) {v : Vic} (hv : VicMove s.vic v) (sl : Slot) (ba aec : Signal)
    (acc : AccessType) (a : Option (BitVec 14)) (d : Option (BitVec 12)) (b : Bool) :
    R s ((s.setVic v).record sl ba aec acc a d b) :=
  hR.trans _ _ _ (hR.vic s hv) (record_respects hR.toClosed _ _ _ _ _ _ _ _)

theorem gModeAccess_answers (hR : ClosedVic R) (hi : InvRespects R inv) (sel : GModeWord) (sl : Slot) (ba aec : Signal)
    (s : State) : Answers R s (gModeAccess inv sel sl ba aec s) := by
  have hd : R s (s.drawColumn sl.cycle) := by
    unfold State.drawColumn
    split
    · exact hR.refl s
    · exact hR.free s
  unfold gModeAccess
  exact Answers.after hR.trans hd (busRead_answers hR.toClosed hi fun t d => record_respects hR.toClosed _ _ _ _ _ _ _ _)

theorem runAccess_answers (hR : ClosedVic R) (hi : InvRespects R inv) (sl : Slot) (ba aec : Signal) (acc : AccessType)
    (s : State) : Answers R s (runAccess inv sl ba aec acc s) := by
  have hr := hR.toClosed
  unfold runAccess
  split
  · exact busRead_answers hr hi fun t d => record_respects hr _ _ _ _ _ _ _ _
  · exact busRead_answers hr hi fun t d => vicRecord_respects hR _ (.refresh _) _ _ _ _ _ _ _
  · refine busRead_answers hr hi fun t d => ?_
    split
    · rename_i h; exact vicRecord_respects hR _ (.cacheStore _ h _) _ _ _ _ _ _ _
    · trivial
  · unfold bitmapAccess
    split
    · exact busRead_answers hr hi fun t d => record_respects hr _ _ _ _ _ _ _ _
    · exact gModeAccess_answers hR hi _ _ _ _ _
  · exact busRead_answers hr hi fun t d => vicRecord_respects hR _ (.pointer _ _) _ _ _ _ _ _ _
  · exact busRead_answers hr hi fun t d => vicRecord_respects hR _ (.countSprite _ _) _ _ _ _ _ _ _
  · exact Answers.andThen hr.trans (setAddressPins_answers hr hi _ _ s) fun t => record_respects hr _ _ _ _ _ _ _ _

theorem runSlot_answers (hR : ClosedVic R) (hi : InvRespects R inv) (ph : Phase) (c : BitVec 7) (s : State) :
    Answers R s (runSlot inv ph c s) := by
  have hr := hR.toClosed
  unfold runSlot
  split
  · trivial
  · exact Answers.andThen hr.trans ((hr.ops hi).setLevel _ _ s) fun t =>
      Answers.andThen hr.trans ((hr.ops hi).setLevel _ _ t) fun u => runAccess_answers hR hi _ _ _ _ u

theorem rasterChange_answers (hR : ClosedVic R) (hi : InvRespects R inv) (s : State) : Answers R s (rasterChange inv s) := by
  have hr := hR.toClosed
  refine Answers.andThen hr.trans ?_ fun t => hR.vic t (.sampleDen _)
  split
  · exact Answers.after hr.trans (hR.trans _ _ _ (hR.vic s (.publish _)) (hR.vic _ (.request _ true))) ((hr.ops hi).setLevel _ _ _)
  · exact hR.vic s (.publish _)

theorem vicStep_answers (hR : ClosedVic R) (hi : InvRespects R inv) (s : State) : Answers R s (vicStep inv s) := by
  have hr := hR.toClosed
  refine Answers.andThen hr.trans ?_ fun t => Answers.after hr.trans (hR.vic t (.settle _)) (runSlot_answers hR hi _ _ _)
  split
  · exact Answers.after hr.trans (hR.vic s (.advance _)) (rasterChange_answers hR hi _)
  · exact hR.vic s (.advance _)

/-! ### The interface operations -/

theorem opPinGetLevel_answers (hR : Closed R) (p : Nat) (s : State) : Answers R s (opPinGetLevel p s) := by
  unfold opPinGetLevel
  split
  · trivial
  · exact hR.emit s _

theorem opPinGetMode_answers (hR : Closed R) (p : Nat) (s : State) : Answers R s (opPinGetMode p s) := by
  unfold opPinGetMode
  split
  · trivial
  · exact hR.emit s _

theorem opPinToggle_answers (hR : Closed R) (hi : InvRespects R inv) (p : Nat) (s : State) :
    Answers R s (opPinToggle inv p s) := by
  unfold opPinToggle
  split
  · trivial
  · split
    · exact (hR.ops hi).setLevel _ _ _
    · exact (hR.ops hi).setLevel _ _ _
    · exact hR.refl s

theorem opTraceGetLevel_answers (hR : Closed R) (t : Nat) (s : State) : Answers R s (opTraceGetLevel t s) := by
  unfold opTraceGetLevel
  split
  · trivial
  · exact hR.emit s _

theorem opTraceToggle_answers (hR : Closed R) (hi : InvRespects R inv) (t : Nat) (s : State) :
    Answers R s (opTraceToggle inv t s) := by
  unfold opTraceToggle
  split
  · trivial
  · split
    · exact (hR.ops hi).resolve _ _ _
    · exact (hR.ops hi).resolve _ _ _
    · exact hR.refl s

theorem opVicSetField_answers (hR : ClosedVic R) (f : FieldId) (v : BitVec 12) (s : State) :
    Answers R s (opVicSetField f v s) := by
  unfold opVicSetField
  split
  · trivial
  · exact hR.vic s (.regs _ _)

theorem ackRasterIrq_answers (hR : ClosedVic R) (hi : InvRespects R inv) (s : State) : Answers R s (ackRasterIrq inv s) :=
  Answers.after hR.trans (hR.vic s (.request _ false)) ((hR.toClosed.ops hi).setLevel _ _ _)

/-- A pin or trace operation of the interface, under any invoker that respects the relation. -/
theorem runCommand_answers_substrate (hr : Closed R) (hi : InvRespects R inv) {i : Instr} (hs : isSubstrateCmd i = true)
    (s : State) : Answers R s (runCommand inv i s) := by
  cases i
  case pinNew => exact (hr.ops hi).pinNew _ _ _
  case pinSetLevel => exact (hr.ops hi).setLevel _ _ _
  case pinSetMode => exact (hr.ops hi).setMode _ _ _
  case pinPullUp => exact (hr.ops hi).pinPull _ _ _
  case pinPullDown => exact (hr.ops hi).pinPull _ _ _
  case pinNoPull => exact (hr.ops hi).pinPull _ _ _
  case pinAddListener => exact (hr.ops hi).addListener _ _ _
  case pinGetLevel => exact opPinGetLevel_answers hr _ _
  case pinGetMode => exact opPinGetMode_answers hr _ _
  case pinSet => exact (hr.ops hi).setLevel _ _ _
  case pinClear => exact (hr.ops hi).setLevel _ _ _
  case pinFloat => exact (hr.ops hi).setLevel _ _ _
  case pinToggle => exact opPinToggle_answers hr hi _ _
  case traceNew => exact (hr.ops hi).traceNew _ _
  case traceAddPin => exact (hr.ops hi).addPin _ _ _
  case traceSetLevel => exact (hr.ops hi).resolve _ _ _
  case traceGetLevel => exact opTraceGetLevel_answers hr _ _
  case tracePullUp => exact (hr.ops hi).tracePull _ _ _
  case tracePullDown => exact (hr.ops hi).tracePull _ _ _
  case traceNoPull => exact (hr.ops hi).tracePull _ _ _
  case traceSet => exact (hr.ops hi).resolve _ _ _
  case traceClear => exact (hr.ops hi).resolve _ _ _
  case traceFloat => exact (hr.ops hi).resolve _ _ _
  case traceToggle => exact opTraceToggle_answers hr hi _ _
  all_goals simp [isSubstrateCmd] at hs

/-- An interface operation, under any invoker that respects the relation. -/
theorem runCommand_answers (hR : ClosedVic R) (hi : InvRespects R inv) (i : Instr) (s : State) :
    Answers R s (runCommand inv i s) := by
  by_cases hs : isSubstrateCmd i = true
  · exact runCommand_answers_substrate hR.toClosed hi hs s
  · cases i <;> first
      | exact absurd rfl hs
      | exact vicStep_answers hR hi s
      | exact opVicSetField_answers hR _ _ s
      | exact hR.vic s (.writeYExpand _ _)
      | exact hR.vic s (.latch _ _)
      | exact ackRasterIrq_answers hR hi s
      | exact answers_violate R s _

theorem runProg_answers (hR : ClosedVic R) (hi : InvRespects R inv) (p : Nat) : ∀ k s, Answers R s (runProg inv p k s)
  | .done, s => hR.refl s
  | .cmd w k, s => by
    refine Answers.andThen hR.trans ?_ fun t => runProg_answers hR hi p k t
    unfold runCommandWord
    split
    · trivial
    · exact runCommand_answers hR hi _ s
  | .branch q yes no, s => by
    unfold runProg
    split
    · exact runProg_answers hR hi p yes s
    · exact runProg_answers hR hi p no s

/-- The invoker that closes the recursion over FUEL respects every such relation, on every board. -/
theorem invoke_answers (hR : ClosedVic R) : ∀ n, InvRespects R (invoke n)
  | 0, _, _, _ => trivial
  | n + 1, l, p, s => by
    refine Answers.after hR.trans (hR.emit s (.invoked l p (s.pinLevel p))) ?_
    unfold invoke runBehaviour
    split
    · exact hR.refl _
    · exact vicStep_answers hR (invoke_answers hR n) _
    · exact runProg_answers hR (invoke_answers hR n) _ _ _

theorem invoker_answers (hR : ClosedVic R) (s : State) : InvRespects R s.invoker := invoke_answers hR _

end

end Sys2Proof.Machine
end

