-- ==== Sys2Proof/Laws/Recording.lean ====
section
/-! SUPPORT. What the substrate operations do on a wired board where the listeners that they call only record: each completes,
and the pins, the traces and the calls are said exactly. -/
namespace Sys2Proof.Machine

/-! ## Wired boards -/

theorem State.pinOn_iff {s : State} {p t : Nat} :
    s.pinOn p t = true ↔ ∃ pin, s.pins.find p = some pin ∧ pin.trace = some t := by
  unfold State.pinOn
  cases h : s.pins.find p <;> simp

theorem State.Wired.member {s : State} (hw : s.Wired) {t : Nat} {tr : Trace} (ht : s.traces.find t = some tr) {p : Nat}
    (hp : p ∈ tr.members) : ∃ pin, s.pins.find p = some pin ∧ pin.trace = some t :=
  State.pinOn_iff.mp ((hw.2.2.1 _ (Arena.mem_of_find ht)).2 p hp)

theorem State.Wired.nodup {s : State} (hw : s.Wired) {t : Nat} {tr : Trace} (ht : s.traces.find t = some tr) :
    tr.members.Nodup := (hw.2.2.1 _ (Arena.mem_of_find ht)).1

theorem State.Wired.traceOf {s : State} (hw : s.Wired) {p t : Nat} {pin : Pin} (hp : s.pins.find p = some pin)
    (ht : pin.trace = some t) : ∃ tr, s.traces.find t = some tr ∧ p ∈ tr.members := by
  have := hw.2.2.2 _ (Arena.mem_of_find hp)
  simp only [ht, State.pointsBack] at this
  cases h : s.traces.find t with
  | none => simp [h] at this
  | some tr => exact ⟨tr, rfl, by simpa [h] using this⟩

/-- Wiring, said by handles. -/
theorem State.wired_iff (s : State) : s.Wired ↔
    (s.pins.Sorted ∧ s.traces.Sorted
      ∧ (∀ t tr, s.traces.find t = some tr → tr.members.Nodup ∧ ∀ p ∈ tr.members, s.pinOn p t = true)
      ∧ ∀ p pin, s.pins.find p = some pin → s.pointsBack p pin.trace = true) := by
  constructor
  · intro hw
    exact ⟨hw.1, hw.2.1, fun t tr h => hw.2.2.1 _ (Arena.mem_of_find h), fun p pin h => hw.2.2.2 _ (Arena.mem_of_find h)⟩
  · rintro ⟨h1, h2, h3, h4⟩
    exact ⟨h1, h2, fun ⟨t, tr⟩ h => h3 t tr (Arena.find_of_mem h2 h), fun ⟨p, pin⟩ h => h4 p pin (Arena.find_of_mem h1 h)⟩

/-- Wiring reads only which pins point at which traces, and the traces' members. -/
theorem State.Wired.transfer {s u : State} (hw : s.Wired) (hp : u.pins.Sorted) (ht : u.traces.Sorted)
    (h1 : ∀ p, (u.pins.find p).map Pin.trace = (s.pins.find p).map Pin.trace)
    (h2 : ∀ t, (u.traces.find t).map Trace.members = (s.traces.find t).map Trace.members) : u.Wired := by
  have hon : ∀ p t, u.pinOn p t = s.pinOn p t := by
    intro p t
    have := h1 p
    unfold State.pinOn
    cases hu : u.pins.find p <;> cases hs : s.pins.find p <;> simp_all
  have hback : ∀ p o, u.pointsBack p o = s.pointsBack p o := by
    intro p o
    cases o with
    | none => rfl
    | some t =>
      have := h2 t
      unfold State.pointsBack
      cases hu : u.traces.find t <;> cases hs : s.traces.find t <;> simp_all
  rw [State.wired_iff] at hw ⊢
  refine ⟨hp, ht, fun t tr h => ?_, fun p pin h => ?_⟩
  · have h2t := h2 t
    rw [h] at h2t
    cases hs : s.traces.find t with
    | none => simp [hs] at h2t
    | some tr' =>
      simp [hs] at h2t
      have := hw.2.2.1 t tr' hs
      rw [h2t]
      exact ⟨this.1, fun p hpm => (hon p t).trans (this.2 p hpm)⟩
  · have h1p := h1 p
    rw [h] at h1p
    cases hs : s.pins.find p with
    | none => simp [hs] at h1p
    | some pin' =>
      simp [hs] at h1p
      rw [hback, h1p]
      exact hw.2.2.2 p pin' hs

/-- A change of a pin that leaves its trace keeps the wiring. -/
theorem State.Wired.setPin {s : State} (hw : s.Wired) {p : Nat} {pin : Pin} (hp : s.pins.find p = some pin) {pin' : Pin}
    (h : pin'.trace = pin.trace) : (s.setPin p pin').Wired := by
  refine hw.transfer (Arena.put_sorted hw.1 _ _) hw.2.1 (fun q => ?_) (fun _ => rfl)
  simp only [State.setPin_pins, Arena.find_put]
  split
  · subst_vars; simp [hp, h]
  · rfl

/-- A change of a trace that leaves its members keeps the wiring. -/
theorem State.Wired.setTrace {s : State} (hw : s.Wired) {t : Nat} {tr : Trace} (ht : s.traces.find t = some tr)
    {tr' : Trace} (h : tr'.members = tr.members) : (s.setTrace t tr').Wired := by
  refine hw.transfer hw.1 (Arena.put_sorted hw.2.1 _ _) (fun _ => rfl) (fun q => ?_)
  simp only [State.setTrace_traces, Arena.find_put]
  split
  · subst_vars; simp [ht, h]
  · rfl

/-! ## What only the wiring fixes -/

theorem SameWiring.refl (s : State) : SameWiring s s := ⟨fun _ => rfl, fun _ => rfl⟩

theorem SameWiring.trans {s t u : State} (h1 : SameWiring s t) (h2 : SameWiring t u) : SameWiring s u :=
  ⟨fun q => (h2.1 q).trans (h1.1 q), fun t => (h2.2 t).trans (h1.2 t)⟩

theorem SameWiring.of_eq {s u : State} (hp : u.pins = s.pins) (ht : u.traces = s.traces) : SameWiring s u :=
  ⟨fun _ => by rw [hp], fun _ => by rw [ht]⟩

/-- A field of a pin that is not its level is the same. -/
theorem SameWiring.field {s u : State} (h : SameWiring s u) {β : Type} (f : Pin → β) (hf : ∀ pin, f pin = f pin.static)
    (q : Nat) : (u.pins.find q).map f = (s.pins.find q).map f := by
  have := congrArg (Option.map f) (h.1 q)
  simp only [Option.map_map] at this
  have e : f ∘ Pin.static = f := funext fun pin => (hf pin).symm
  rwa [e] at this

/-- A field of a trace that is not its level is the same. -/
theorem SameWiring.traceField {s u : State} (h : SameWiring s u) {β : Type} (f : Trace → β)
    (hf : ∀ tr, f tr = f tr.static) (t : Nat) : (u.traces.find t).map f = (s.traces.find t).map f := by
  have := congrArg (Option.map f) (h.2 t)
  simp only [Option.map_map] at this
  have e : f ∘ Trace.static = f := funext fun tr => (hf tr).symm
  rwa [e] at this

theorem SameWiring.modes {s u : State} (h : SameWiring s u) (q : Nat) :
    (u.pins.find q).map Pin.mode = (s.pins.find q).map Pin.mode := h.field Pin.mode (fun _ => rfl) q

theorem SameWiring.has {s u : State} (h : SameWiring s u) (q : Nat) : u.pins.has q = s.pins.has q := by
  have := h.modes q
  unfold Arena.has
  cases hu : u.pins.find q <;> cases hs : s.pins.find q <;> simp_all

theorem SameWiring.blockHandle {s u : State} (h : SameWiring s u) (he : u.env = s.env) (b : BlockPin) :
    u.blockHandle b = s.blockHandle b := by
  unfold State.blockHandle; rw [h.has, he]

theorem SameWiring.pinMode {s u : State} (h : SameWiring s u) (q : Nat) : u.pinMode q = s.pinMode q := by
  have := h.modes q
  unfold State.pinMode
  cases hu : u.pins.find q <;> cases hs : s.pins.find q <;> simp_all

theorem SameWiring.traceOf {s u : State} (h : SameWiring s u) (q : Nat) : u.traceOf q = s.traceOf q := by
  have := h.field Pin.trace (fun _ => rfl) q
  unfold State.traceOf
  cases hu : u.pins.find q <;> cases hs : s.pins.find q <;> simp_all

theorem SameWiring.pinListeners {s u : State} (h : SameWiring s u) (q : Nat) : u.pinListeners q = s.pinListeners q := by
  have := h.field Pin.listeners (fun _ => rfl) q
  unfold State.pinListeners
  cases hu : u.pins.find q <;> cases hs : s.pins.find q <;> simp_all

theorem SameWiring.traceMembers {s u : State} (h : SameWiring s u) (t : Nat) : u.traceMembers t = s.traceMembers t := by
  have := h.traceField Trace.members (fun _ => rfl) t
  unfold State.traceMembers
  cases hu : u.traces.find t <;> cases hs : s.traces.find t <;> simp_all

theorem SameWiring.pushedWith {s u : State} (h : SameWiring s u) (q : Nat) : u.pushedWith q = s.pushedWith q := by
  unfold State.pushedWith
  rw [h.traceOf]
  cases s.traceOf q with
  | none => rfl
  | some t => exact h.traceMembers t

theorem SameWiring.wired {s u : State} (h : SameWiring s u) (hw : s.Wired) (hp : u.pins.Sorted) (ht : u.traces.Sorted) :
    u.Wired := hw.transfer hp ht (h.field Pin.trace (fun _ => rfl)) (h.traceField Trace.members (fun _ => rfl))

/-- A change of a pin's level alone. -/
theorem SameWiring.setPin_level {s : State} {p : Nat} {pin : Pin} (hp : s.pins.find p = some pin) (v : Signal) :
    SameWiring s (s.setPin p { pin with level := v }) := by
  refine ⟨fun q => ?_, fun _ => rfl⟩
  simp only [State.setPin_pins, Arena.find_put]
  split
  · subst_vars; simp [hp, Pin.static]
  · rfl

/-- A change of a trace's level alone. -/
theorem SameWiring.setTrace_level {s : State} {t : Nat} {tr : Trace} (ht : s.traces.find t = some tr) (v : Signal) :
    SameWiring s (s.setTrace t { tr with level := v }) := by
  refine ⟨fun _ => rfl, fun q => ?_⟩
  simp only [State.setTrace_traces, Arena.find_put]
  split
  · subst_vars; simp [ht, Trace.static]
  · rfl

/-! ## Listeners that only record -/

theorem State.traceOf_eq {s : State} {p : Nat} {pin : Pin} (hp : s.pins.find p = some pin) : s.traceOf p = pin.trace := by
  simp [State.traceOf, hp]

theorem State.traceMembers_eq {s : State} {t : Nat} {tr : Trace} (ht : s.traces.find t = some tr) :
    s.traceMembers t = tr.members := by simp [State.traceMembers, ht]

theorem State.pinListeners_eq {s : State} {p : Nat} {pin : Pin} (hp : s.pins.find p = some pin) :
    s.pinListeners p = pin.listeners := by simp [State.pinListeners, hp]

theorem State.pushedWith_eq {s : State} {p t : Nat} {pin : Pin} {tr : Trace} (hp : s.pins.find p = some pin)
    (hpt : pin.trace = some t) (ht : s.traces.find t = some tr) : s.pushedWith p = tr.members := by
  simp [State.pushedWith, State.traceOf_eq hp, hpt, State.traceMembers_eq ht]

theorem State.Records.subset {s : State} {ps qs : List Nat} (h : s.Records ps) (hq : ∀ q ∈ qs, q ∈ ps) : s.Records qs :=
  fun q hm => h q (hq q hm)

/-- Recording reads only the pins' listeners and the environment. -/
theorem State.Records.transfer {s u : State} {ps : List Nat} (h : s.Records ps) (he : u.env = s.env)
    (hl : ∀ p ∈ ps, u.pinListeners p = s.pinListeners p) : u.Records ps := by
  intro p hp l hm
  unfold State.behaviour
  rw [he]
  exact h p hp l (hl p hp ▸ hm)

theorem SameWiring.records {s u : State} (h : SameWiring s u) (he : u.env = s.env) {ps : List Nat} (hr : s.Records ps) :
    u.Records ps := hr.transfer he fun p _ => h.pinListeners p

/-- A change of a pin that leaves its listeners. -/
theorem State.Records.setPin {s : State} {ps : List Nat} (h : s.Records ps) {p : Nat} {pin pin' : Pin}
    (hp : s.pins.find p = some pin) (hl : pin'.listeners = pin.listeners) : (s.setPin p pin').Records ps := by
  refine h.transfer rfl fun q _ => ?_
  unfold State.pinListeners
  simp only [State.setPin_pins, Arena.find_put]
  by_cases e : q = p
  · rw [e, if_pos rfl, hp]; exact hl
  · rw [if_neg e]

/-- A change of a trace leaves the listeners. -/
theorem State.Records.setTrace {s : State} {ps : List Nat} (h : s.Records ps) (t : Nat) (tr : Trace) :
    (s.setTrace t tr).Records ps := h

/-! ## The three ways of PIN_SET_LEVEL (R85) -/

theorem pinSetLevel_inert {s : State} {p : Nat} {pin : Pin} (hp : s.pins.find p = some pin) (ho : pin.mode.outCap = false)
    (inv : Invoker) (v : Signal) : pinSetLevel inv p v s = .next s := by
  unfold pinSetLevel; simp [hp, ho]

theorem pinSetLevel_alone {s : State} {p : Nat} {pin : Pin} (hp : s.pins.find p = some pin) (ho : pin.mode.outCap = true)
    (ht : pin.trace = none) (inv : Invoker) (v : Signal) :
    pinSetLevel inv p v s = .next (s.setPin p { pin with level := v }) := by
  unfold pinSetLevel; simp only [hp, ho, if_true]
  split
  · rfl
  · rename_i h; rw [ht] at h; cases h

theorem pinSetLevel_driving {s : State} {p t : Nat} {pin : Pin} (hp : s.pins.find p = some pin)
    (ho : pin.mode.outCap = true) (ht : pin.trace = some t) (inv : Invoker) (v : Signal) :
    pinSetLevel inv p v s = resolveAndPush inv t (pendingOf pin.mode v) (s.setPin p { pin with level := v }) := by
  unfold pinSetLevel; simp only [hp, ho, if_true]
  split
  · rename_i h; rw [ht] at h; cases h
  · rename_i h; rw [ht] at h; cases h; rfl

/-! ## Invocations that only record -/

theorem invoke_none {n : Nat} (hn : 0 < n) {l p : Nat} {s : State} (h : s.behaviour l = none) :
    invoke n l p s = .next (s.emit (.invoked l p (s.pinLevel p))) := by
  cases n with
  | zero => cases hn
  | succ n => simp [invoke, h, runBehaviour]

/-- `f` completes in `u` under every invoker that has an invocation left: the number left plays no part. -/
def Runs (f : Invoker → Result) (u : State) : Prop := ∀ n, 0 < n → f (invoke n) = .next u

theorem Runs.pure (u : State) : Runs (fun _ => .next u) u := fun _ _ => rfl

theorem Runs.andThen {f : Invoker → Result} {g : Invoker → State → Result} {t u : State} (h : Runs f t)
    (h' : Runs (fun inv => g inv t) u) : Runs (fun inv => andThen (f inv) (g inv)) u := fun n hn => by
  simp only [h n hn, andThen_next]; exact h' n hn

/-- The answer of a computation that runs is the one state. -/
theorem Runs.unique {f : Invoker → Result} {t u : State} (h : Runs f t) (h' : Runs f u) : t = u := by
  have := (h 1 Nat.one_pos).symm.trans (h' 1 Nat.one_pos)
  cases this; rfl

theorem invokeAll_none {n : Nat} (hn : 0 < n) (p : Nat) : ∀ (ls : List Nat) (s : State),
    (∀ l ∈ ls, s.behaviour l = none) → invokeAll (invoke n) p ls s
      = .next { s with out := (ls.map (fun l => Event.invoked l p (s.pinLevel p))).reverse ++ s.out }
  | [], _, _ => rfl
  | l :: ls, s, h => by
    rw [invokeAll, invoke_none hn (h l (by simp)), andThen_next, invokeAll_none hn p ls (s.emit (.invoked l p (s.pinLevel p)))
      (fun k hk => h k (by simp [hk]))]
    simp [State.emit, State.pinLevel]

/-! ## The push -/

@[simp] theorem pushedPin_trace (h : Nat) (v : Signal) (pin : Pin) : (pushedPin h v pin).trace = pin.trace := by
  unfold pushedPin; split <;> rfl

@[simp] theorem pushedPin_listeners (h : Nat) (v : Signal) (pin : Pin) :
    (pushedPin h v pin).listeners = pin.listeners := by unfold pushedPin; split <;> rfl

@[simp] theorem pushedPin_mode (h : Nat) (v : Signal) (pin : Pin) : (pushedPin h v pin).mode = pin.mode := by
  unfold pushedPin; split <;> rfl

@[simp] theorem pushedPin_pull (h : Nat) (v : Signal) (pin : Pin) : (pushedPin h v pin).pull = pin.pull := by
  unfold pushedPin; split <;> rfl

/-- A pin that is not Input-capable keeps its level. -/
theorem pushedPin_of_not_inCap {pin : Pin} (hm : pin.mode.inCap = false) (h : Nat) (v : Signal) :
    pushedPin h v pin = pin := by simp [pushedPin, hm]

theorem updateLevel_recording {s : State} (hs : s.pins.Sorted) {p h : Nat} {pin : Pin} {tr : Trace} (hr : s.Records [p])
    (hp : s.pins.find p = some pin) (hpt : pin.trace = some h) (ht : s.traces.find h = some tr) :
    Runs (fun inv => updateLevel inv p s)
      { s with pins := s.pins.put p (pushedPin h tr.level pin), out := (pinCalls s tr.level p).reverse ++ s.out } := by
  intro n hn
  have hl : ∀ l ∈ pin.listeners, s.behaviour l = none := State.pinListeners_eq hp ▸ hr p (by simp)
  unfold updateLevel
  simp only [hp, hpt, ht, pinCalls]
  by_cases hm : pin.mode.inCap = true
  · by_cases ha : adopt pin tr.level = pin.level
    · have : pushedPin h tr.level pin = pin := by
        unfold pushedPin
        split
        · rw [ha]
        · rfl
      simp [hm, ha, this, Arena.put_find hs hp]
    · rw [if_pos hm, if_neg ha, invokeAll_none hn p pin.listeners (s.setPin p _) (fun l h' => hl l h')]
      simp [hm, ha, pushedPin, hpt, State.setPin, State.pinLevel]
  · have hm' : pin.mode.inCap = false := by simpa using hm
    simp [hm', pushedPin_of_not_inCap hm', Arena.put_find hs hp]

/-- A pin that does not observe is not updated (R83). -/
theorem updateLevel_blind {s : State} {q : Nat} (h : s.blind q = true) (inv : Invoker) : updateLevel inv q s = .next s := by
  unfold State.blind at h
  unfold updateLevel
  cases hq : s.pins.find q with
  | none => simp [hq] at h
  | some pin => simp [hq] at h; simp [h]

theorem updateAll_blind {s : State} (inv : Invoker) : ∀ (qs rest : List Nat), (∀ q ∈ qs, s.blind q = true) →
    updateAll inv (qs ++ rest) s = updateAll inv rest s
  | [], _, _ => rfl
  | q :: qs, rest, h => by
    rw [List.cons_append, updateAll, updateLevel_blind (h q (by simp)), andThen_next]
    exact updateAll_blind inv qs rest fun r hr => h r (by simp [hr])

/-- Calls are made once per pin, from the pin as it stood before the push. -/
theorem pinCalls_congr {s u : State} {p : Nat} (h : u.pins.find p = s.pins.find p) (v : Signal) :
    pinCalls u v p = pinCalls s v p := by simp [pinCalls, h]

theorem updateAll_recording : ∀ (ps : List Nat) (s : State), s.pins.Sorted → s.Records ps → ∀ {h : Nat} {tr : Trace},
    s.traces.find h = some tr → ps.Nodup → (∀ p ∈ ps, s.pinOn p h = true) →
    ∃ u, Runs (fun inv => updateAll inv ps s) u ∧ u.traces = s.traces ∧ SameRest s u ∧ u.pins.Sorted
      ∧ (∀ p, u.pins.find p = if p ∈ ps then (s.pins.find p).map (pushedPin h tr.level) else s.pins.find p)
      ∧ u.out = (ps.flatMap (pinCalls s tr.level)).reverse ++ s.out
  | [], s, hs, _, _, _, _, _, _ => ⟨s, Runs.pure s, rfl, ⟨rfl, rfl, rfl, rfl⟩, hs, by simp, by simp⟩
  | p :: ps, s, hs, hr, h, tr, ht, hnd, hon => by
    obtain ⟨pin, hp, hpt⟩ := State.pinOn_iff.mp (hon p (by simp))
    have hstep := updateLevel_recording hs (hr.subset (qs := [p]) (by simp)) hp hpt ht
    let s1 : State := { s with pins := s.pins.put p (pushedPin h tr.level pin), out := (pinCalls s tr.level p).reverse ++ s.out }
    have hf : ∀ q, s1.pins.find q = if q = p then some (pushedPin h tr.level pin) else s.pins.find q :=
      fun q => Arena.find_put _ _ _ _
    have hnd' := List.nodup_cons.mp hnd
    have hold : ∀ q ∈ ps, s1.pins.find q = s.pins.find q := fun q hq => by
      rw [hf, if_neg (fun e : q = p => hnd'.1 (e ▸ hq))]
    have hr1 : s1.Records ps := by
      refine (hr.subset (qs := ps) fun q hq => by simp [hq]).transfer (u := s1) rfl fun q hq => ?_
      unfold State.pinListeners; rw [hold q hq]
    have hon1 : ∀ q ∈ ps, s1.pinOn q h = true := by
      intro q hq
      obtain ⟨pq, h1, h2⟩ := State.pinOn_iff.mp (hon q (by simp [hq]))
      exact State.pinOn_iff.mpr ⟨pq, by rw [hold q hq, h1], h2⟩
    obtain ⟨u, hu, htr, hrest, hsort, hpins, hout⟩ := updateAll_recording ps s1 (Arena.put_sorted hs _ _) hr1 (h := h)
      (tr := tr) ht hnd'.2 hon1
    refine ⟨u, hstep.andThen hu, htr, hrest, hsort, fun q => ?_, ?_⟩
    · rw [hpins, hf]
      by_cases hq : q = p
      · subst hq; simp [hnd'.1, hp]
      · simp [hq]
    · rw [hout]
      have : ps.flatMap (pinCalls s1 tr.level) = ps.flatMap (pinCalls s tr.level) := by
        have hc : ∀ q ∈ ps, pinCalls s1 tr.level q = pinCalls s tr.level q := fun q hq => pinCalls_congr (hold q hq) _
        simp only [List.flatMap, List.map_congr_left hc]
      rw [this]
      simp [s1]

/-- What a push does to every pin, whether a member or not, on a wired board. -/
theorem resolveAndPush_pushed {s : State} (hw : s.Wired) {h : Nat} {tr : Trace} (hr : s.Records tr.members)
    (ht : s.traces.find h = some tr) (v : Signal) :
    ∃ u, Runs (fun inv => resolveAndPush inv h v s) u ∧ Pushed s u h tr (resolve s tr v) ∧ u.pins.Sorted
      ∧ u.traces.Sorted := by
  have hw1 : (s.setTrace h { tr with level := resolve s tr v }).Wired := hw.setTrace ht rfl
  obtain ⟨u, hu, htr, hrest, hsort, hpins, hout⟩ := updateAll_recording tr.members
    (s.setTrace h { tr with level := resolve s tr v }) hw1.1 (hr.setTrace _ _) (h := h) (Arena.find_put_same _ _ _)
    (hw.nodup ht) (fun p hp => State.pinOn_iff.mpr (hw.member ht hp))
  refine ⟨u, ?_, ⟨?_, fun h' hne => ?_, fun p => ?_, ?_, ?_⟩, hsort, by rw [htr]; exact hw1.2.1⟩
  · intro n hn; unfold resolveAndPush; simp only [ht]; exact hu n hn
  · rw [htr]; exact Arena.find_put_same _ _ _
  · rw [htr]; exact Arena.find_put_ne _ hne _
  · rw [hpins]
    by_cases hp : p ∈ tr.members
    · simp [hp]
    · simp only [hp, if_false, State.setTrace_pins]
      cases hf : s.pins.find p with
      | none => rfl
      | some pin =>
        have : pin.trace ≠ some h := fun e => by
          obtain ⟨tr', h1, h2⟩ := hw.traceOf hf e
          rw [ht] at h1; cases h1; exact hp h2
        simp [pushedPin, this]
  · rw [hout]
    have : tr.members.flatMap (pinCalls (s.setTrace h { tr with level := resolve s tr v }) (resolve s tr v))
        = tr.members.flatMap (pinCalls s (resolve s tr v)) := rfl
    simpa using this
  · exact hrest

theorem Pushed.findPin {s u : State} {h : Nat} {tr : Trace} {lvl : Signal} (hp : Pushed s u h tr lvl) (p : Nat) :
    u.pins.find p = (s.pins.find p).map (pushedPin h lvl) := hp.pins p

@[simp] theorem pushedPin_static (h : Nat) (v : Signal) (pin : Pin) : (pushedPin h v pin).static = pin.static := by
  unfold pushedPin; split <;> rfl

theorem Pushed.wiring {s u : State} {h : Nat} {tr : Trace} {lvl : Signal} (hp : Pushed s u h tr lvl)
    (ht : s.traces.find h = some tr) : SameWiring s u := by
  refine ⟨fun q => ?_, fun t => ?_⟩
  · rw [hp.pins q]; cases s.pins.find q <;> simp
  · by_cases e : t = h
    · subst e; rw [hp.trace, ht]; rfl
    · rw [hp.traces t e]

/-- A push changes the level of its own trace alone. -/
theorem Pushed.traceLevel {s u : State} {h : Nat} {tr : Trace} {lvl : Signal} (hp : Pushed s u h tr lvl) {h' : Nat}
    (hne : h' ≠ h) : u.traceLevel h' = s.traceLevel h' := by unfold State.traceLevel; rw [hp.traces h' hne]

/-- A push leaves the level of a pin that does not observe, and of a pin that is not on its trace. -/
theorem Pushed.pinLevel {s u : State} {h : Nat} {tr : Trace} {lvl : Signal} (hp : Pushed s u h tr lvl) {q : Nat}
    (hq : (s.pinMode q).inCap = false ∨ s.traceOf q ≠ some h) : u.pinLevel q = s.pinLevel q := by
  unfold State.pinLevel
  rw [hp.pins q]
  unfold State.pinMode State.traceOf at hq
  cases hf : s.pins.find q with
  | none => rfl
  | some pin =>
    rw [hf] at hq
    rcases hq with hq | hq
    · simp [pushedPin_of_not_inCap hq]
    · simp [pushedPin, hq]

end Sys2Proof.Machine
end

