-- ==== Sys2Proof/Laws/Block.lean ====
section
/-! SUPPORT. The block's own use of the substrate, where the traces of the pins that it sets have listeners that only record: a
pin set, the address bus, a read, each access. Each completes, and what it leaves is said once. -/
namespace Sys2Proof.Machine

/-! ## What holds its level -/

theorem HoldsBut.refl (s : State) (ps : List Nat) : HoldsBut s s ps := ⟨fun _ _ => rfl, fun _ _ _ => rfl⟩

theorem HoldsBut.mono {s u : State} {ps qs : List Nat} (h : HoldsBut s u ps) (hs : ∀ p ∈ ps, p ∈ qs) : HoldsBut s u qs :=
  ⟨fun t ht => h.1 t fun p hp => ht p (hs p hp),
    fun q hq hc => h.2 q (fun hm => hq (hs q hm)) (hc.imp id fun hc t ht p hp => hc t ht p (hs p hp))⟩

/-- Two stretches of work, each with its own pins. -/
theorem HoldsBut.trans {s t u : State} {ps qs : List Nat} (h1 : HoldsBut s t ps) (hw : SameWiring s t)
    (h2 : HoldsBut t u qs) : HoldsBut s u (ps ++ qs) := by
  refine ⟨fun h hh => ?_, fun q hq hc => ?_⟩
  · rw [h2.1 h fun p hp => by rw [hw.traceOf]; exact hh p (by simp [hp]), h1.1 h fun p hp => hh p (by simp [hp])]
  · rw [h2.2 q (fun hm => hq (by simp [hm])) ?_, h1.2 q (fun hm => hq (by simp [hm]))
      (hc.imp id fun hc t ht p hp => hc t ht p (by simp [hp]))]
    rw [hw.pinMode, hw.traceOf]
    exact hc.imp id fun hc t ht p hp => by rw [hw.traceOf]; exact hc t ht p (by simp [hp])

/-- The same levels. -/
theorem HoldsBut.of_eq {s u : State} (hp : u.pins = s.pins) (ht : u.traces = s.traces) (ps : List Nat) : HoldsBut s u ps :=
  ⟨fun h _ => by unfold State.traceLevel; rw [ht], fun q _ _ => by unfold State.pinLevel; rw [hp]⟩

theorem HoldsOthers.refl (s : State) (bs : List BlockPin) : HoldsOthers s s bs := HoldsBut.refl s _

theorem HoldsOthers.mono {s u : State} {bs cs : List BlockPin} (h : HoldsOthers s u bs) (hs : ∀ b ∈ bs, b ∈ cs) :
    HoldsOthers s u cs := HoldsBut.mono h fun p hp => by
  obtain ⟨b, hb, rfl⟩ := List.mem_map.mp hp
  exact List.mem_map.mpr ⟨b, hs b hb, rfl⟩

theorem HoldsOthers.trans {s t u : State} {bs cs : List BlockPin} (h1 : HoldsOthers s t bs) (hw : SameWiring s t)
    (he : t.env = s.env) (h2 : HoldsOthers t u cs) : HoldsOthers s u (bs ++ cs) := by
  have e : cs.map t.blockHandle = cs.map s.blockHandle := List.map_congr_left fun b _ => hw.blockHandle he b
  unfold HoldsOthers at h2 ⊢
  rw [e] at h2
  rw [List.map_append]
  exact HoldsBut.trans h1 hw h2

/-- A pin that does not observe, and is none of the block pins `bs`, holds its level. -/
theorem HoldsOthers.pin {s u : State} {bs : List BlockPin} (h : HoldsOthers s u bs) {q : Nat}
    (hq : ∀ b ∈ bs, q ≠ s.blockHandle b) (hm : (s.pinMode q).inCap = false) : u.pinLevel q = s.pinLevel q :=
  h.2 q (fun hmem => by obtain ⟨b, hb, e⟩ := List.mem_map.mp hmem; exact hq b hb e.symm) (.inl hm)

/-- A change of the block's state, the parameters aside, changes neither side. -/
theorem HoldsOthers.congr {s s' u u' : State} {bs : List BlockPin} (h : HoldsOthers s u bs) (hp : s'.pins = s.pins)
    (ht : s'.traces = s.traces) (he : s'.env = s.env) (hp' : u'.pins = u.pins) (ht' : u'.traces = u.traces) :
    HoldsOthers s' u' bs := by
  have e : bs.map s'.blockHandle = bs.map s.blockHandle :=
    List.map_congr_left fun b _ => (SameWiring.of_eq hp ht).blockHandle he b
  unfold HoldsOthers at h ⊢
  rw [e]
  unfold HoldsBut State.traceLevel State.pinLevel State.traceOf State.pinMode at h ⊢
  rw [hp, ht, hp', ht']
  exact h

/-! ## Substrate work -/

/-- `u` comes from `s` by substrate work alone, all of whose calls only recorded: the rest of the state, the modes of the pins
and the wiring are as they were, and only calls have been handed out. -/
structure Quiet (s u : State) : Prop where
  rest   : SameRest s u
  wired  : u.Wired
  wiring : SameWiring s u
  calls  : ∃ cs, u.out = cs ++ s.out ∧ ∀ e ∈ cs, e.isCall = true

theorem Quiet.rfl' {s : State} (hw : s.Wired) : Quiet s s := ⟨⟨rfl, rfl, rfl, rfl⟩, hw, SameWiring.refl s, [], rfl, by simp⟩

theorem Quiet.trans {s t u : State} (h1 : Quiet s t) (h2 : Quiet t u) : Quiet s u := by
  obtain ⟨cs, hc, ha⟩ := h1.calls
  obtain ⟨ds, hd, hb⟩ := h2.calls
  refine ⟨⟨h2.rest.1.trans h1.rest.1, h2.rest.2.1.trans h1.rest.2.1, h2.rest.2.2.1.trans h1.rest.2.2.1,
    h2.rest.2.2.2.trans h1.rest.2.2.2⟩, h2.wired, h1.wiring.trans h2.wiring, ds ++ cs, ?_, ?_⟩
  · rw [hd, hc, List.append_assoc]
  · intro e he
    rcases List.mem_append.mp he with he | he
    · exact hb e he
    · exact ha e he

theorem Quiet.blockHandle {s u : State} (h : Quiet s u) (b : BlockPin) : u.blockHandle b = s.blockHandle b :=
  h.wiring.blockHandle h.rest.2.1 b

theorem Quiet.pinMode {s u : State} (h : Quiet s u) (q : Nat) : u.pinMode q = s.pinMode q := h.wiring.pinMode q

/-- What a board is ready for depends on its wiring and its parameters alone. -/
theorem State.Ready.transfer {s u : State} {bs : List BlockPin} (h : s.Ready bs) (hw : u.Wired) (hs : SameWiring s u)
    (he : u.env = s.env) : u.Ready bs := by
  refine ⟨hw, fun b hb => (hs.has _).trans (h.terminals b hb), he ▸ h.fuel, fun b hb => ?_⟩
  rw [hs.blockHandle he, hs.pushedWith]
  exact hs.records he (h.records b hb)

theorem State.Ready.congr {s u : State} {bs : List BlockPin} (h : s.Ready bs) (hp : u.pins = s.pins)
    (ht : u.traces = s.traces) (he : u.env = s.env) : u.Ready bs :=
  h.transfer ((SameWiring.of_eq hp ht).wired h.wired (hp ▸ h.wired.1) (ht ▸ h.wired.2.1)) (SameWiring.of_eq hp ht) he

theorem State.Ready.mono {s : State} {bs cs : List BlockPin} (h : s.Ready bs) (hs : ∀ b ∈ cs, b ∈ bs) : s.Ready cs :=
  ⟨h.wired, h.terminals, h.fuel, fun b hb => h.records b (hs b hb)⟩

theorem Quiet.ready {s u : State} (h : Quiet s u) {bs : List BlockPin} (hr : s.Ready bs) : u.Ready bs :=
  hr.transfer h.wired h.wiring h.rest.2.1

theorem pinCalls_isCall (s : State) (v : Signal) (p : Nat) : ∀ e ∈ pinCalls s v p, e.isCall = true := by
  intro e he
  unfold pinCalls at he
  split at he
  · split at he
    · obtain ⟨l, -, rfl⟩ := List.mem_map.mp he; rfl
    · simp at he
  · simp at he

theorem Pushed.quiet {s u : State} {h : Nat} {tr : Trace} {lvl : Signal} (hp : Pushed s u h tr lvl) (hw : s.Wired)
    (ht : s.traces.find h = some tr) (h1 : u.pins.Sorted) (h2 : u.traces.Sorted) : Quiet s u := by
  refine ⟨hp.rest, (hp.wiring ht).wired hw h1 h2, hp.wiring ht, _, hp.out, fun e he => ?_⟩
  obtain ⟨p, -, he⟩ := List.mem_flatMap.mp (List.mem_reverse.mp he)
  exact pinCalls_isCall _ _ _ e he

theorem Quiet.setPin_level {s : State} (hw : s.Wired) {p : Nat} {pin : Pin} (hp : s.pins.find p = some pin) (v : Signal) :
    Quiet s (s.setPin p { pin with level := v }) :=
  ⟨⟨rfl, rfl, rfl, rfl⟩, hw.setPin hp rfl, SameWiring.setPin_level hp v, [], rfl, by simp⟩

/-- PIN_SET_LEVEL of an existing pin whose trace has listeners that only record: it completes; nothing but the pin, its trace
and the observers of that trace changes its level; an Output pin holds what was set. -/
theorem pinSetLevel_quiet {s : State} (hw : s.Wired) {p : Nat} (hr : s.Records (s.pushedWith p)) {pin : Pin}
    (hp : s.pins.find p = some pin) (v : Signal) : ∃ u, Runs (fun inv => pinSetLevel inv p v s) u ∧ Quiet s u
      ∧ HoldsBut s u [p] ∧ (pin.mode = .output → u.pinLevel p = v) := by
  have hq0 := Quiet.setPin_level hw hp v
  have hl0 : ∀ q, q ≠ p → (s.setPin p { pin with level := v }).pinLevel q = s.pinLevel q := by
    intro q hq; unfold State.pinLevel; rw [State.setPin_pins, Arena.find_put_ne _ hq]
  have hl1 : (s.setPin p { pin with level := v }).pinLevel p = v := by
    unfold State.pinLevel; rw [State.setPin_pins, Arena.find_put_same]
  by_cases ho : pin.mode.outCap = true
  · obtain hpt | ⟨t, hpt⟩ : pin.trace = none ∨ ∃ t, pin.trace = some t := by cases pin.trace <;> simp
    · exact ⟨_, fun n _ => pinSetLevel_alone hp ho hpt (invoke n) v, hq0,
        ⟨fun _ _ => rfl, fun q hq _ => hl0 q (by simpa using hq)⟩, fun _ => hl1⟩
    · obtain ⟨tr, ht, -⟩ := hw.traceOf hp hpt
      rw [State.pushedWith_eq hp hpt ht] at hr
      obtain ⟨u, hu, hpu, h1, h2⟩ := resolveAndPush_pushed hq0.wired (h := t) (tr := tr)
        (hq0.wiring.records hq0.rest.2.1 hr) ht (pendingOf pin.mode v)
      refine ⟨u, fun n hn => (pinSetLevel_driving hp ho hpt (invoke n) v).trans (hu n hn),
        hq0.trans (hpu.quiet hq0.wired ht h1 h2), ⟨fun h hh => ?_, fun q hq hc => ?_⟩, fun hm => ?_⟩
      · exact hpu.traceLevel fun e => hh p (by simp) (by rw [State.traceOf_eq hp, hpt, e])
      · rw [hpu.pinLevel, hl0 q (by simpa using hq)]
        rw [hq0.pinMode, hq0.wiring.traceOf]
        exact hc.imp id fun hc e => hc t e p (by simp) (by rw [State.traceOf_eq hp, hpt])
      · rw [hpu.pinLevel, hl1]
        left; rw [hq0.pinMode]; unfold State.pinMode; simp [hp, hm, Mode.inCap]
  · refine ⟨s, fun n _ => pinSetLevel_inert hp (by simpa using ho) (invoke n) v, Quiet.rfl' hw, HoldsBut.refl s _,
      fun hmo => ?_⟩
    simp [hmo, Mode.outCap] at ho

/-! ## The block's pins -/

theorem BlockPin.mem_all (b : BlockPin) : b ∈ BlockPin.all := by
  cases b with
  | phi => decide
  | ba => decide
  | aec => decide
  | irq => decide
  | a i => revert i; decide
  | d i => revert i; decide

/-- A block pin exists on every board with the block's terminals. -/
theorem State.HasTerminals.pin {s : State} (h : s.HasTerminals) (b : BlockPin) :
    ∃ pin, s.pins.find (s.blockHandle b) = some pin := by
  have : s.pins.has (s.blockHandle b) = true := by
    unfold State.blockHandle
    split
    · assumption
    · exact h b b.mem_all
  exact Option.isSome_iff_exists.mp this

theorem State.blockLevel_eq (s : State) (b : BlockPin) : s.blockLevel b = s.pinLevel (s.blockHandle b) := rfl

theorem setBlockPin_quiet {s : State} {bs : List BlockPin} (hr : s.Ready bs) {b : BlockPin} (hb : b ∈ bs) (v : Signal) :
    ∃ u, Runs (fun inv => setBlockPin inv b v s) u ∧ Quiet s u ∧ HoldsOthers s u [b]
      ∧ (s.pinMode (s.blockHandle b) = .output → u.pinLevel (s.blockHandle b) = v) := by
  obtain ⟨pin, hp⟩ := hr.terminals.pin b
  obtain ⟨u, hu, hq, h1, h2⟩ := pinSetLevel_quiet hr.wired (hr.records b hb) hp v
  refine ⟨u, hu, hq, h1, fun hm => h2 ?_⟩
  simpa [State.pinMode, hp] using hm

theorem setAddressPins_quiet {bs : List BlockPin} (v : Fin 14 → Signal) : ∀ (is : List (Fin 14)) (s : State), s.Ready bs →
    (∀ i ∈ is, .a i ∈ bs) → ∃ u, Runs (fun inv => setAddressPins inv v is s) u ∧ Quiet s u
      ∧ HoldsOthers s u (is.map .a)
      ∧ (is.Nodup → (∀ i ∈ is, ∀ j ∈ is, s.blockHandle (.a i) = s.blockHandle (.a j) → i = j) →
          ∀ i ∈ is, s.pinMode (s.blockHandle (.a i)) = .output → u.pinLevel (s.blockHandle (.a i)) = v i)
  | [], s, hr, _ => ⟨s, Runs.pure s, Quiet.rfl' hr.wired, HoldsOthers.refl s _, by simp⟩
  | i :: is, s, hr, hbs => by
    obtain ⟨t, ht, hq, h1, h2⟩ := setBlockPin_quiet hr (hbs i (by simp)) (v i)
    obtain ⟨u, hu, hq', h3, h4⟩ := setAddressPins_quiet v is t (hq.ready hr) (fun j hj => hbs j (by simp [hj]))
    refine ⟨u, ht.andThen hu, hq.trans hq', h1.trans hq.wiring hq.rest.2.1 h3, fun hnd hinj j hj hm => ?_⟩
    have hnd' := List.nodup_cons.mp hnd
    rcases List.mem_cons.mp hj with rfl | hj
    · rw [h3.pin (fun b hb => ?_) (by rw [hq.pinMode, hm]; rfl)]
      · exact h2 hm
      · obtain ⟨k, hk, rfl⟩ := List.mem_map.mp hb
        rw [hq.blockHandle]
        exact fun e => hnd'.1 (hinj j (by simp) k (by simp [hk]) e ▸ hk)
    · have := h4 hnd'.2 (fun a ha b hb e => by
        rw [hq.blockHandle, hq.blockHandle] at e
        exact hinj a (by simp [ha]) b (by simp [hb]) e) j hj (by rw [hq.blockHandle, hq.pinMode]; exact hm)
      rwa [hq.blockHandle] at this

theorem addressPins_nodup : addressPins.Nodup := by decide

theorem mem_addressPins (i : Fin 14) : i ∈ addressPins := by revert i; decide

/-! ## The accesses -/

/-- The block's state after an access of a type (R144, R145, R155, R156; the other types change nothing, R160). -/
def Vic.afterAccess (v : Vic) (acc : AccessType) (data : BitVec 12) : Vic :=
  match acc with
  | .idle => v
  | .refresh => { v with ref := v.ref - 1 }
  | .videoMatrixColor => if h : v.vmli.toNat < 40 then v.cacheStore ⟨v.vmli.toNat, h⟩ data else v
  | .bitmapChar => v
  | .spritePointer _ => { v with sprPtr := data.setWidth 8 }
  | .spriteData n => v.countSprite n
  | .cpuOwned => v

/-- The address of an access in a state, at a slot's cycle. -/
def State.accessAddr (s : State) (c : BitVec 7) (acc : AccessType) : Option (BitVec 14) :=
  match acc with
  | .idle => some (idleAddr s.vic.regs)
  | .refresh => some (refreshAddr s.vic.ref)
  | .videoMatrixColor => some (cAddr s.vic.regs s.vic.vc)
  | .bitmapChar =>
    if s.vic.idle then some (idleAddr s.vic.regs)
    else some (gAddr s.vic.regs.selector s.vic (gOperands s.vic c s.freeCtr).1 (gOperands s.vic c s.freeCtr).2)
  | .spritePointer n => some (pAddr s.vic.regs n)
  | .spriteData n => some (sAddr s.vic.sprPtr s.vic.sprites[n].mc)
  | .cpuOwned => none

/-- Whether an access renders as blank (R159). -/
def Vic.accessBlank (v : Vic) (acc : AccessType) : Bool :=
  match acc with
  | .bitmapChar => !v.idle && blankMode v.regs.selector
  | _ => false

theorem mem_addressBlockPins (i : Fin 14) : BlockPin.a i ∈ addressBlockPins :=
  List.mem_map.mpr ⟨i, mem_addressPins i, rfl⟩

/-- Setting all the address pins. -/
theorem setAllAddressPins_quiet {s : State} (hr : s.Ready addressBlockPins) (v : Fin 14 → Signal) :
    ∃ u, Runs (fun inv => setAddressPins inv v addressPins s) u ∧ Quiet s u ∧ HoldsOthers s u addressBlockPins
      ∧ (s.BlockPinsOk → ∀ i : Fin 14, u.blockLevel (.a i) = v i) := by
  obtain ⟨u, hu, hq, h1, h2⟩ := setAddressPins_quiet v addressPins s hr (fun i _ => mem_addressBlockPins i)
  refine ⟨u, hu, hq, h1, fun hb i => ?_⟩
  rw [State.blockLevel_eq, hq.blockHandle]
  refine h2 addressPins_nodup (fun i _ j _ e => ?_) i (mem_addressPins i) (hb.2 _ (BlockPin.mem_all _))
  have := List.inj_on_of_nodup_map hb.1 (BlockPin.mem_all (.a i)) (BlockPin.mem_all (.a j)) e
  injection this

theorem driveAddress_quiet {s : State} (hr : s.Ready addressBlockPins) (a : BitVec 14) :
    ∃ u, Runs (fun inv => driveAddress inv a s) u ∧ Quiet s u ∧ HoldsOthers s u addressBlockPins
      ∧ (s.BlockPinsOk → ∀ i : Fin 14, u.blockLevel (.a i) = bitSignal (a.getLsbD i.val)) :=
  setAllAddressPins_quiet hr _

theorem releaseAddress_quiet {s : State} (hr : s.Ready addressBlockPins) :
    ∃ u, Runs (fun inv => releaseAddress inv s) u ∧ Quiet s u ∧ HoldsOthers s u addressBlockPins
      ∧ (s.BlockPinsOk → ∀ i : Fin 14, u.blockLevel (.a i) = .floating) :=
  setAllAddressPins_quiet hr _

/-- What the address pins show in a slot. -/
def addressLevel (addr : Option (BitVec 14)) (i : Fin 14) : Signal :=
  match addr with
  | some a => bitSignal (a.getLsbD i.val)
  | none => .floating

/-- What an access leaves: `u` from `s`, with the record's fields and the block's state as a function of
the data. -/
structure Accessed (s u : State) (sl : Slot) (ba aec : Signal) (acc : AccessType) (addr : Option (BitVec 14))
    (blank : Bool) (f : BitVec 12 → Vic) : Prop where
  vic     : u.vic = f ((addr.map u.busData).getD 0)
  env     : u.env = s.env
  pending : u.pending = s.pending
  wired   : u.Wired
  wiring  : SameWiring s u
  out     : ∃ cs, u.out = .access ⟨sl.raster, sl.cycle, sl.phase, acc, addr, addr.map u.busData, blank, ba, aec⟩
              :: cs ++ s.out ∧ ∀ e ∈ cs, e.isCall = true
  levels  : HoldsOthers s u addressBlockPins
  address : s.BlockPinsOk → ∀ i : Fin 14, u.blockLevel (.a i) = addressLevel addr i

theorem State.busData_congr {s u : State} (hp : u.pins = s.pins) (he : u.env = s.env) (a : BitVec 14) :
    u.busData a = s.busData a := by
  have hh : ∀ b, u.blockHandle b = s.blockHandle b := fun b => by unfold State.blockHandle; rw [hp, he]
  have hl : ∀ b, u.blockLevel b = s.blockLevel b := fun b => by unfold State.blockLevel; rw [hh, hp]
  unfold State.busData State.sampleData
  rw [he]; simp only [hl]

/-- After the address is driven, an access that changes only the block's state and emits its record is `Accessed`. -/
theorem accessed_of_driven {s t u : State} {sl : Slot} {ba aec : Signal} {acc : AccessType} {addr : Option (BitVec 14)}
    {blank : Bool} {f : BitVec 12 → Vic} (hq : Quiet s t) (hl : HoldsOthers s t addressBlockPins)
    (ha : s.BlockPinsOk → ∀ i : Fin 14, t.blockLevel (.a i) = addressLevel addr i)
    (hp : u.pins = t.pins) (ht : u.traces = t.traces) (he : u.env = t.env) (hpe : u.pending = t.pending)
    (hv : u.vic = f ((addr.map t.busData).getD 0))
    (ho : u.out = .access ⟨sl.raster, sl.cycle, sl.phase, acc, addr, addr.map t.busData, blank, ba, aec⟩ :: t.out) :
    Accessed s u sl ba aec acc addr blank f := by
  have hb : ∀ a, u.busData a = t.busData a := State.busData_congr hp he
  have hm : addr.map u.busData = addr.map t.busData := by cases addr <;> simp [hb]
  have hs := SameWiring.of_eq hp ht
  obtain ⟨cs, hc, hcc⟩ := hq.calls
  refine ⟨by rw [hm]; exact hv, he.trans hq.rest.2.1, hpe.trans hq.rest.2.2.1,
    hs.wired hq.wired (hp ▸ hq.wired.1) (ht ▸ hq.wired.2.1), hq.wiring.trans hs, ⟨cs, ?_, hcc⟩,
    hl.congr rfl rfl rfl hp ht, fun hbp i => ?_⟩
  · rw [ho, hm, hc]; rfl
  · rw [← ha hbp i, State.blockLevel_eq, State.blockLevel_eq, hs.blockHandle he]
    unfold State.pinLevel; rw [hp]

theorem busRead_runs {a : BitVec 14} {s t u : State} (h : Runs (fun inv => driveAddress inv a s) t)
    {k : State → BitVec 12 → Result} (hk : k t (t.busData a) = .next u) : Runs (fun inv => busRead inv a s k) u :=
  h.andThen (g := fun _ s' => k s' (s'.busData a)) fun _ _ => hk

/-- A c-access with the cache index out of range stops after its read (R145, code 11). -/
theorem videoMatrixAccess_stops {s : State} (hr : s.Ready addressBlockPins) (hv : 40 ≤ s.vic.vmli.toNat) (sl : Slot)
    (ba aec : Signal) {n : Nat} (hn : 0 < n) :
    videoMatrixAccess (invoke n) sl ba aec s = violate (.lineCacheIndex s.vic.vmli) := by
  obtain ⟨t, ht, hq, -⟩ := driveAddress_quiet hr (cAddr s.vic.regs s.vic.vc)
  unfold videoMatrixAccess busRead
  simp only [ht n hn, andThen_next]
  rw [dif_neg (by rw [hq.rest.1]; omega), hq.rest.1]

/-- The address of a g-access under a selector, at a slot's cycle. -/
def State.gModeAddr (s : State) (sel : GModeWord) (c : BitVec 7) : BitVec 14 :=
  gAddr sel s.vic (gOperands s.vic c s.freeCtr).1 (gOperands s.vic c s.freeCtr).2

/-- The counter of free values after a g-access: one more exactly where the cycle has no column. -/
def State.columnCtr (s : State) (c : BitVec 7) : Nat := if columnOf c = none then s.freeCtr + 1 else s.freeCtr

theorem gModeAccess_accessed {s : State} (hr : s.Ready addressBlockPins) (sel : GModeWord) (sl : Slot) (ba aec : Signal) :
    ∃ u, Runs (fun inv => gModeAccess inv sel sl ba aec s) u
      ∧ Accessed s u sl ba aec .bitmapChar (some (s.gModeAddr sel sl.cycle)) (blankMode sel) (fun _ => s.vic)
      ∧ u.freeCtr = s.columnCtr sl.cycle := by
  unfold State.columnCtr
  cases hc : columnOf sl.cycle with
  | some k =>
    obtain ⟨t, ht, hq, hl, ha⟩ := driveAddress_quiet hr (s.gModeAddr sel sl.cycle)
    have e : s.drawColumn sl.cycle = s := by simp [State.drawColumn, hc]
    unfold gModeAccess
    simp only [e]
    refine ⟨_, busRead_runs ht rfl, accessed_of_driven hq hl ha rfl rfl rfl rfl ?_ rfl, ?_⟩
    · simpa using hq.rest.1
    · simpa using hq.rest.2.2.2
  | none =>
    obtain ⟨t, ht, hq, hl, ha⟩ := driveAddress_quiet (s := s.drawFree) (hr.congr rfl rfl rfl) (s.gModeAddr sel sl.cycle)
    have e : s.drawColumn sl.cycle = s.drawFree := by simp [State.drawColumn, hc]
    unfold gModeAccess
    simp only [e]
    have h : Accessed s.drawFree (t.record sl ba aec .bitmapChar (some (s.gModeAddr sel sl.cycle))
        (some (t.busData (s.gModeAddr sel sl.cycle))) (blankMode sel)) sl ba aec .bitmapChar
        (some (s.gModeAddr sel sl.cycle)) (blankMode sel) (fun _ => s.vic) :=
      accessed_of_driven hq hl ha rfl rfl rfl rfl hq.rest.1 rfl
    refine ⟨_, busRead_runs ht rfl, ⟨h.vic, h.env, h.pending, h.wired, h.wiring, h.out, h.levels, h.address⟩, ?_⟩
    simpa using hq.rest.2.2.2

/-- The counter of free values after an access. -/
def State.accessCtr (s : State) (c : BitVec 7) (acc : AccessType) : Nat :=
  if acc = .bitmapChar ∧ s.vic.idle = false then s.columnCtr c else s.freeCtr

/-- Every access completes where the block can set its address pins, a c-access when the cache index is in range (R145). -/
theorem runAccess_accessed {s : State} (hr : s.Ready addressBlockPins) (sl : Slot) (ba aec : Signal) (acc : AccessType)
    (hc : acc = .videoMatrixColor → s.vic.vmli.toNat < 40) :
    ∃ u, Runs (fun inv => runAccess inv sl ba aec acc s) u
      ∧ Accessed s u sl ba aec acc (s.accessAddr sl.cycle acc) (s.vic.accessBlank acc) (s.vic.afterAccess acc)
      ∧ u.freeCtr = s.accessCtr sl.cycle acc := by
  cases acc with
  | idle =>
    obtain ⟨t, ht, hq, hl, ha⟩ := driveAddress_quiet hr (idleAddr s.vic.regs)
    simp only [runAccess, idleAccess]
    exact ⟨_, busRead_runs ht rfl, accessed_of_driven hq hl ha rfl rfl rfl rfl (by exact hq.rest.1) rfl,
      by simpa [State.accessCtr] using hq.rest.2.2.2⟩
  | refresh =>
    obtain ⟨t, ht, hq, hl, ha⟩ := driveAddress_quiet hr (refreshAddr s.vic.ref)
    simp only [runAccess, refreshAccess]
    refine ⟨_, busRead_runs ht rfl, accessed_of_driven hq hl ha rfl rfl rfl rfl ?_ rfl,
      by simpa [State.accessCtr] using hq.rest.2.2.2⟩
    simp [Vic.afterAccess, hq.rest.1]
  | videoMatrixColor =>
    obtain ⟨t, ht, hq, hl, ha⟩ := driveAddress_quiet hr (cAddr s.vic.regs s.vic.vc)
    simp only [runAccess, videoMatrixAccess]
    have hv : t.vic.vmli.toNat < 40 := by rw [hq.rest.1]; exact hc rfl
    refine ⟨_, busRead_runs ht (dif_pos hv), accessed_of_driven hq hl ha rfl rfl rfl rfl ?_ rfl,
      by simpa [State.accessCtr] using hq.rest.2.2.2⟩
    simp [Vic.afterAccess, State.accessAddr, hq.rest.1, hc rfl]
  | bitmapChar =>
    cases hi : s.vic.idle with
    | true =>
      obtain ⟨t, ht, hq, hl, ha⟩ := driveAddress_quiet hr (idleAddr s.vic.regs)
      simp only [runAccess, bitmapAccess, hi, if_true, State.accessAddr, Vic.accessBlank, Bool.not_true, Bool.false_and]
      exact ⟨_, busRead_runs ht rfl, accessed_of_driven hq hl ha rfl rfl rfl rfl (by exact hq.rest.1) rfl,
        by simpa [State.accessCtr, hi] using hq.rest.2.2.2⟩
    | false =>
      simp only [runAccess, bitmapAccess, hi, State.accessAddr, Vic.accessBlank, Bool.not_false, Bool.true_and,
        State.accessCtr, and_self, if_true]
      exact gModeAccess_accessed hr s.vic.regs.selector sl ba aec
  | spritePointer n =>
    obtain ⟨t, ht, hq, hl, ha⟩ := driveAddress_quiet hr (pAddr s.vic.regs n)
    simp only [runAccess, spritePointerAccess]
    refine ⟨_, busRead_runs ht rfl, accessed_of_driven hq hl ha rfl rfl rfl rfl ?_ rfl,
      by simpa [State.accessCtr] using hq.rest.2.2.2⟩
    simp [Vic.afterAccess, hq.rest.1, State.accessAddr]
  | spriteData n =>
    obtain ⟨t, ht, hq, hl, ha⟩ := driveAddress_quiet hr (sAddr s.vic.sprPtr s.vic.sprites[n].mc)
    simp only [runAccess, spriteDataAccess]
    refine ⟨_, busRead_runs ht rfl, accessed_of_driven hq hl ha rfl rfl rfl rfl ?_ rfl,
      by simpa [State.accessCtr] using hq.rest.2.2.2⟩
    simp [Vic.afterAccess, hq.rest.1]
  | cpuOwned =>
    obtain ⟨t, ht, hq, hl, ha⟩ := releaseAddress_quiet hr
    simp only [runAccess, cpuOwnedAccess]
    exact ⟨_, ht.andThen (g := fun _ s' => .next (s'.record sl ba aec .cpuOwned none none false)) fun _ _ => rfl,
      accessed_of_driven hq hl ha rfl rfl rfl rfl (by exact hq.rest.1) rfl, by simpa [State.accessCtr] using hq.rest.2.2.2⟩

end Sys2Proof.Machine
end

