-- ==== Sys2Proof/Laws/Decode.lean ====
section
/-! SUPPORT. The fields of the words that the encoder builds, read back; and the enumerations' round trips. -/
namespace Sys2Proof

@[simp] theorem opOf_cmdWord (op : BitVec 8) (a b : BitVec 12) : opOf (cmdWord op a b) = op := by
  apply BitVec.eq_of_getLsbD_eq
  intro i hi
  simp only [opOf, cmdWord, BitVec.getLsbD_extractLsb', BitVec.getLsbD_append]
  have h1 : ¬ 24 + i < 24 := by omega
  simp [hi, h1]

@[simp] theorem aOf_cmdWord (op : BitVec 8) (a b : BitVec 12) : aOf (cmdWord op a b) = a := by
  apply BitVec.eq_of_getLsbD_eq
  intro i hi
  simp only [aOf, cmdWord, BitVec.getLsbD_extractLsb', BitVec.getLsbD_append]
  have h1 : 12 + i < 24 := by omega
  have h2 : ¬ 12 + i < 12 := by omega
  simp [hi, h1, h2]

@[simp] theorem bOf_cmdWord (op : BitVec 8) (a b : BitVec 12) : bOf (cmdWord op a b) = b := by
  apply BitVec.eq_of_getLsbD_eq
  intro i hi
  simp only [bOf, cmdWord, BitVec.getLsbD_extractLsb', BitVec.getLsbD_append]
  have h1 : i < 24 := by omega
  simp [hi, h1]

/-- An immediate of at most 12 bits in the low bits of `b` is read back whole (R64, R65). -/
theorem imm_cmdWord {n : Nat} (hn : n ≤ 12) (op : BitVec 8) (a : BitVec 12) (v : BitVec n) :
    (cmdWord op a (immB v)).extractLsb' 0 n = v := by
  apply BitVec.eq_of_getLsbD_eq
  intro i hi
  simp only [cmdWord, immB, BitVec.getLsbD_extractLsb', BitVec.getLsbD_append, BitVec.getLsbD_setWidth]
  have h1 : i < 24 := by omega
  have h2 : i < 12 := by omega
  simp [hi, h1, h2]

@[simp] theorem bLow_cmdWord (op : BitVec 8) (a : BitVec 12) (v : BitVec 2) : bLow (cmdWord op a (immB v)) = v :=
  imm_cmdWord (by omega) op a v

@[simp] theorem decodeSignal_encode (w : CmdWord) (v : Signal) : decodeSignal w (encodeSignal v) = .ok v := by
  cases v <;> rfl

@[simp] theorem decodeMode_encode (m : Mode) : decodeMode (encodeMode m) = m := by cases m <;> rfl

@[simp] theorem decodePull_encode (p : Pull) : decodePull (encodePull p) = .ok p := by cases p <;> rfl

/-- The two internal opcodes (R65). -/
theorem isInternalOp_cmdWord (op : BitVec 8) (a b : BitVec 12) :
    isInternalOp (cmdWord op a b) = (op == 0xF0 || op == 0xF1) := by simp [isInternalOp]

@[simp] theorem slotCycle_slotWord (ph : Phase) (c : BitVec 7) : slotCycle (slotWord ph c) = c := by
  cases ph <;> (revert c; decide)

@[simp] theorem slotPhase_slotWord (ph : Phase) (c : BitVec 7) : slotPhase (slotWord ph c) = ph := by
  cases ph <;> (revert c; decide)

@[simp] theorem accSprite_accWord (tag : BitVec 3) (n : Fin 8) : accSprite (accWord tag n) = n := by
  revert tag n; decide

@[simp] theorem accTag_accWord (tag : BitVec 3) (n : Fin 8) : (accWord tag n).extractLsb' 3 3 = tag := by
  revert tag n; decide

end Sys2Proof
end

