-- ==== Sys2Proof/Laws/Exec.lean ====
section
/-! SUPPORT. What every instruction respects, whatever the board's listeners do; and what the pin and trace operations
respect on a board whose listeners keep to the substrate. -/
namespace Sys2Proof.Machine

/-- A SLOT row runs its own slot (R66, R67). -/
theorem exec_slot {i : Instr} {ph : Phase} {c : BitVec 7} (h : i.slotOf = some (ph, c)) (s : State) :
    exec i s = runSlot s.invoker ph c s := by
  cases i <;> first
    | (cases h; rfl)
    | exact absurd h (by simp [Instr.slotOf])

/-- An ACC row runs its own access (R68). -/
theorem exec_acc {i : Instr} {acc : AccessType} (h : i.accOf = some acc) (s : State) :
    exec i s = runAccessHere s.invoker acc s := by
  cases i <;> first
    | (cases h; rfl)
    | exact absurd h (by simp [Instr.accOf])

/-- A GMODE row runs the g-access under its own selector (R69). -/
theorem exec_gmode {i : Instr} {sel : GModeWord} (h : i.gmodeOf = some sel) (s : State) :
    exec i s = runGModeHere s.invoker sel s := by
  cases i <;> first
    | (cases h; rfl)
    | exact absurd h (by simp [Instr.gmodeOf])

/-- An operation of the interface runs under the stimulus's own invoker (R65, R108). -/
theorem exec_command {i : Instr} (h : i.atInterface = true) (s : State) : exec i s = runCommand s.invoker i s := by
  cases i <;> first
    | exact Bool.noConfusion (show false = true from h)
    | rfl

theorem atInterface_of_substrate {i : Instr} (h : isSubstrateCmd i = true) : i.atInterface = true := by
  cases i <;> first
    | rfl
    | exact Bool.noConfusion (show false = true from h)

/-- A set of a pin, toggles included, is PIN_SET_LEVEL (R93 to R96). -/
theorem exec_setsPin {i : Instr} {p : Handle} {v : Signal} {s : State} {pin : Pin} (hp : s.pins.find p.toNat = some pin)
    (h : i.SetsPin p v pin) : exec i s = pinSetLevel s.invoker p.toNat v s := by
  rcases h with h | ⟨rfl, ⟨h, rfl⟩ | ⟨h, rfl⟩⟩
  · cases i <;> simp only [Instr.pinSets, Option.some.injEq, Prod.mk.injEq, reduceCtorEq] at h <;>
      obtain ⟨rfl, rfl⟩ := h <;> rfl
  all_goals
    show opPinToggle _ _ _ = _
    simp [opPinToggle, hp, h]

/-- A set of a trace, toggles and RESOLVE_AND_PUSH included, is one resolution (R82, R99, R104 to R107). -/
theorem exec_setsTrace {i : Instr} {t : Handle} {v : Signal} {s : State} {tr : Trace}
    (ht : s.traces.find t.toNat = some tr) (h : i.SetsTrace t v tr) :
    exec i s = resolveAndPush s.invoker t.toNat v s := by
  rcases h with h | ⟨rfl, ⟨h, rfl⟩ | ⟨h, rfl⟩⟩
  · cases i <;> simp only [Instr.traceSets, Option.some.injEq, Prod.mk.injEq, reduceCtorEq] at h <;>
      obtain ⟨rfl, rfl⟩ := h <;> rfl
  all_goals
    show opTraceToggle _ _ _ = _
    simp [opTraceToggle, ht, h]

/-- What the interface decodes is an operation of the interface (R71). -/
theorem decodeCmd_atInterface {w : CmdWord} {i : Instr} (h : decodeCmd w = .ok i) : i.atInterface = true := by
  unfold decodeCmd at h
  split at h
  · cases h
  · rename_i hi
    have h0 : (opOf w).toNat ≠ 0xF0 := fun e => hi (by
      unfold isInternalOp; rw [BitVec.eq_of_toNat_eq (x := opOf w) (y := 0xF0#8) e]; rfl)
    have h1 : (opOf w).toNat ≠ 0xF1 := fun e => hi (by
      unfold isInternalOp; rw [BitVec.eq_of_toNat_eq (x := opOf w) (y := 0xF1#8) e]; rfl)
    unfold decodeOperation at h
    split at h
    all_goals first
      | exact absurd ‹_› h0
      | exact absurd ‹_› h1
      | (cases h; rfl)
      | (exact absurd h (by simp))
      | (cases hs : decodeSignal w (bLow w) with
          | error e => rw [hs] at h; cases h
          | ok v => rw [hs] at h; cases h; rfl)

/-- Every instruction respects every relation that the updates of the state respect, and refuses nothing. -/
theorem exec_answers {R : State → State → Prop} (hR : ClosedVic R) (i : Instr) (s : State) : Answers R s (exec i s) := by
  have hi := invoker_answers hR s
  cases hc : i.atInterface
  case true => rw [exec_command hc]; exact runCommand_answers hR hi i s
  case false =>
    cases i
    case updateLevel => exact (hR.ops hi).update _ _
    case resolveAndPush => exact (hR.ops hi).resolve _ _ _
    all_goals first
      | exact Bool.noConfusion (show true = false from hc)
      | (rw [exec_slot rfl s]; exact runSlot_answers hR hi _ _ _)
      | (rw [exec_acc rfl s]; exact runAccess_answers hR hi _ _ _ _ _)
      | (rw [exec_gmode rfl s]; exact gModeAccess_answers hR hi _ _ _ _ _)

/-! ## Boards whose listeners keep to the substrate -/

theorem decodeCmd_substrate {w : CmdWord} (hw : isSubstrateWord w = true) {i : Instr} (h : decodeCmd w = .ok i) :
    isSubstrateCmd i = true := by
  have hop : (opOf w).toNat < 0x20 := by simpa [isSubstrateWord] using hw
  unfold decodeCmd at h
  split at h
  · simp at h
  · unfold decodeOperation at h
    split at h
    all_goals first
      | (exfalso; omega)
      | (cases h; rfl)
      | (exact absurd h (by simp))
      | (cases hs : decodeSignal w (bLow w) with
          | error e => rw [hs] at h; cases h
          | ok v => rw [hs] at h; cases h; rfl)

/-- A relation that the substrate's updates respect, and that fixes the environment. -/
structure RespectsSubstrate (R : State → State → Prop) : Prop extends Respects R where
  env : ∀ s u, R s u → u.env = s.env

/-- The relation, from states of boards whose listeners keep to the substrate. -/
def onSubstrateBoard (R : State → State → Prop) (s u : State) : Prop := s.SubstrateBoard → R s u

theorem onSubstrateBoard_respects {R : State → State → Prop} (hR : RespectsSubstrate R) :
    Respects (onSubstrateBoard R) where
  refl s _ := hR.refl s
  trans s t u h1 h2 hs := by
    have he := hR.env s t (h1 hs)
    exact hR.trans _ _ _ (h1 hs) (h2 (by unfold State.SubstrateBoard; rw [he]; exact hs))
  move h _ := hR.move h

theorem runProg_answers_substrate {R : State → State → Prop} (hr : Closed R) {inv : Invoker} (hi : InvRespects R inv)
    (p : Nat) : ∀ k, ListenerProg.substrateOnly k = true → ∀ s, Answers R s (runProg inv p k s)
  | .done, _, s => hr.refl s
  | .cmd w k, hk, s => by
    have hk' := Bool.and_eq_true_iff.mp hk
    refine Answers.andThen hr.trans ?_ fun t => runProg_answers_substrate hr hi p k hk'.2 t
    unfold runCommandWord
    split
    · trivial
    · rename_i hd
      exact runCommand_answers_substrate hr hi (decodeCmd_substrate hk'.1 hd) s
  | .branch q yes no, hk, s => by
    have hk' := Bool.and_eq_true_iff.mp hk
    unfold runProg
    split
    · exact runProg_answers_substrate hr hi p yes hk'.1 s
    · exact runProg_answers_substrate hr hi p no hk'.2 s

/-- An answer under the premise, which the state has, is an answer. -/
theorem Answers.onBoard {R : State → State → Prop} {s : State} {r : Result} (hs : s.SubstrateBoard)
    (h : Answers (onSubstrateBoard R) s r) : Answers R s r := by
  cases r with
  | next u => exact h hs
  | fault x => trivial
  | refused x => exact h

/-- Where the premise fails, not to refuse is to answer. -/
theorem Answers.off {R : State → State → Prop} {s t : State} {r : Result} (hs : ¬s.SubstrateBoard)
    (h : Answers (fun _ _ => True) t r) : Answers (onSubstrateBoard R) s r := by
  cases r with
  | next u => exact fun h => absurd h hs
  | fault x => trivial
  | refused x => exact h

/-- The relation that always holds. -/
theorem closedVic_true : ClosedVic (fun _ _ => True) := RespectsVic.closedVic {
  refl _ := trivial
  trans _ _ _ _ _ := trivial
  move _ := trivial
  vic _ _ _ := trivial
  free _ := trivial }

theorem invoke_answers_substrate {R : State → State → Prop} (hR : RespectsSubstrate R) :
    ∀ n, InvRespects (onSubstrateBoard R) (invoke n)
  | 0, _, _, _ => trivial
  | n + 1, l, p, s => by
    have hr := (onSubstrateBoard_respects hR).closed
    refine Answers.after hr.trans (hr.emit s (.invoked l p (s.pinLevel p))) ?_
    unfold invoke runBehaviour
    split
    · exact hr.refl _
    · rename_i hb
      by_cases hs : s.SubstrateBoard
      · exact absurd (hs _ (Arena.mem_of_find hb)) (by simp [Behaviour.substrateOnly])
      · exact Answers.off hs (vicStep_answers closedVic_true (invoke_answers closedVic_true n) (s.emit _))
    · rename_i k hb
      by_cases hs : s.SubstrateBoard
      · exact runProg_answers_substrate hr (invoke_answers_substrate hR n) p k (hs _ (Arena.mem_of_find hb)) _
      · exact Answers.off hs (runProg_answers closedVic_true (invoke_answers closedVic_true n) p k (s.emit _))

/-- The pin and trace operations, by constructor (R65). -/
theorem onSubstrate_cases {i : Instr} (h : i.onSubstrate = true) :
    isSubstrateCmd i = true ∨ (∃ p, i = .updateLevel p) ∨ ∃ t v, i = .resolveAndPush t v := by
  cases i
  case updateLevel p => exact .inr (.inl ⟨p, rfl⟩)
  case resolveAndPush t v => exact .inr (.inr ⟨t, v, rfl⟩)
  case pinNew => exact .inl rfl
  case pinSetLevel => exact .inl rfl
  case pinSetMode => exact .inl rfl
  case pinPullUp => exact .inl rfl
  case pinPullDown => exact .inl rfl
  case pinNoPull => exact .inl rfl
  case pinAddListener => exact .inl rfl
  case pinGetLevel => exact .inl rfl
  case pinGetMode => exact .inl rfl
  case pinSet => exact .inl rfl
  case pinClear => exact .inl rfl
  case pinFloat => exact .inl rfl
  case pinToggle => exact .inl rfl
  case traceNew => exact .inl rfl
  case traceAddPin => exact .inl rfl
  case traceSetLevel => exact .inl rfl
  case traceGetLevel => exact .inl rfl
  case tracePullUp => exact .inl rfl
  case tracePullDown => exact .inl rfl
  case traceNoPull => exact .inl rfl
  case traceSet => exact .inl rfl
  case traceClear => exact .inl rfl
  case traceFloat => exact .inl rfl
  case traceToggle => exact .inl rfl
  case vicTick => simp [Instr.onSubstrate, encode, isSubstrateWord] at h
  case vicSetField => simp [Instr.onSubstrate, encode, isSubstrateWord] at h
  case vicWriteYExpand => simp [Instr.onSubstrate, encode, isSubstrateWord] at h
  case vicWriteRasterCompare => simp [Instr.onSubstrate, encode, isSubstrateWord] at h
  case vicAckRasterIrq => simp [Instr.onSubstrate, encode, isSubstrateWord] at h
  all_goals simp [Instr.onSubstrate, encode] at h

/-- A pin or trace operation, internal ones included, on such a board. -/
theorem exec_answers_substrate {R : State → State → Prop} (hR : RespectsSubstrate R) {i : Instr} (hi : i.onSubstrate = true)
    {s : State} (hs : s.SubstrateBoard) : Answers R s (exec i s) := by
  have hr := (onSubstrateBoard_respects hR).closed
  have hi' : InvRespects (onSubstrateBoard R) s.invoker := invoke_answers_substrate hR _
  refine Answers.onBoard hs ?_
  rcases onSubstrate_cases hi with hc | ⟨p, rfl⟩ | ⟨t, v, rfl⟩
  · rw [exec_command (atInterface_of_substrate hc)]; exact runCommand_answers_substrate hr hi' hc s
  · exact (hr.ops hi').update _ _
  · exact (hr.ops hi').resolve _ _ _

end Sys2Proof.Machine
end

