-- ==== Sys2Proof/Laws/Tick.lean ====
section
/-! SUPPORT. One slot and one half-cycle step on a board that is ready for them: that they complete, however many nested
invocations are left, and everything that they leave. -/
namespace Sys2Proof.Machine

/-! ## One slot -/

/-- What sub-steps 6 to 10 leave for a slot whose access type is `acc`. -/
structure SlotDone (s u : State) (ph : Phase) (c : BitVec 7) (acc : AccessType) : Prop where
  vic     : u.vic = s.vic.afterAccess acc (((s.accessAddr c acc).map u.busData).getD 0)
  env     : u.env = s.env
  pending : u.pending = s.pending
  freeCtr : u.freeCtr = s.accessCtr c acc
  wired   : u.Wired
  wiring  : SameWiring s u
  out     : ∃ cs, u.out = .access ⟨s.vic.raster, c, ph, acc, s.accessAddr c acc, (s.accessAddr c acc).map u.busData,
              s.vic.accessBlank acc, s.slotBa ph c, aecLevel ph acc⟩ :: cs ++ s.out ∧ ∀ e ∈ cs, e.isCall = true
  ba      : s.BlockPinsOk → u.blockLevel .ba = s.slotBa ph c
  aec     : s.BlockPinsOk → u.blockLevel .aec = aecLevel ph acc
  address : s.BlockPinsOk → ∀ i : Fin 14, u.blockLevel (.a i) = addressLevel (s.accessAddr c acc) i
  levels  : HoldsOthers s u slotBlockPins

theorem State.BlockPinsOk.ne {s : State} (h : s.BlockPinsOk) {b c : BlockPin} (hne : b ≠ c) :
    s.blockHandle b ≠ s.blockHandle c := fun e => hne (List.inj_on_of_nodup_map h.1 b.mem_all c.mem_all e)

theorem State.BlockPinsOk.transfer {s u : State} (h : s.BlockPinsOk) (hm : ∀ q, u.pinMode q = s.pinMode q)
    (hh : ∀ b, u.blockHandle b = s.blockHandle b) : u.BlockPinsOk := by
  refine ⟨?_, fun b hb => by rw [hh, hm]; exact h.2 b hb⟩
  have : BlockPin.all.map u.blockHandle = BlockPin.all.map s.blockHandle := List.map_congr_left (fun b _ => hh b)
  rw [this]; exact h.1

theorem State.accessAddr_congr {s u : State} (hv : u.vic = s.vic) (hf : u.freeCtr = s.freeCtr) (c : BitVec 7)
    (acc : AccessType) : u.accessAddr c acc = s.accessAddr c acc := by unfold State.accessAddr; rw [hv, hf]

theorem State.accessCtr_congr {s u : State} (hv : u.vic = s.vic) (hf : u.freeCtr = s.freeCtr) (c : BitVec 7)
    (acc : AccessType) : u.accessCtr c acc = s.accessCtr c acc := by
  unfold State.accessCtr State.columnCtr; rw [hv, hf]

/-- The address pins are among those of a slot, and these among those of a step. -/
theorem addressBlockPins_slot : ∀ b ∈ addressBlockPins, b ∈ slotBlockPins := by decide

theorem slotBlockPins_step : ∀ b ∈ slotBlockPins, b ∈ stepBlockPins := by decide

/-- A slot completes where the block can set the pins of a slot, a c-access when the cache index is in range. -/
theorem runSlot_done {s : State} (hr : s.Ready slotBlockPins) {ph : Phase} {c : BitVec 7} {acc : AccessType}
    (hd : slotDecode ph c s.vic.badLine s.vic.dma = .ok acc) (hc : acc = .videoMatrixColor → s.vic.vmli.toNat < 40) :
    ∃ u, Runs (fun inv => runSlot inv ph c s) u ∧ SlotDone s u ph c acc := by
  obtain ⟨t, ht, hq, hl, hv⟩ := setBlockPin_quiet hr (b := .ba) (by decide) (s.slotBa ph c)
  obtain ⟨t2, ht2, hq2, hl2, hv2⟩ := setBlockPin_quiet (hq.ready hr) (b := .aec) (by decide) (aecLevel ph acc)
  have hqq := hq.trans hq2
  obtain ⟨u, hu, ha, hf⟩ := runAccess_accessed ((hqq.ready hr).mono addressBlockPins_slot) ⟨s.vic.raster, c, ph⟩
    (s.slotBa ph c) (aecLevel ph acc) acc (fun e => by rw [hqq.rest.1]; exact hc e)
  have hvic : t2.vic = s.vic := hqq.rest.1
  have hctr : t2.freeCtr = s.freeCtr := hqq.rest.2.2.2
  have haddr : t2.accessAddr c acc = s.accessAddr c acc := State.accessAddr_congr hvic hctr _ _
  have hh : ∀ b, t2.blockHandle b = s.blockHandle b := hqq.blockHandle
  have hm : ∀ q, t2.pinMode q = s.pinMode q := hqq.pinMode
  have hhu : ∀ b, u.blockHandle b = t2.blockHandle b := fun b => ha.wiring.blockHandle ha.env b
  have hbc : s.BlockPinsOk → ∀ {b : BlockPin}, b.mode = .output → (∀ i, b ≠ .a i) →
      u.pinLevel (s.blockHandle b) = t2.pinLevel (s.blockHandle b) := fun hb b hmo hne =>
    ha.levels.pin (fun b' hb' => by
      obtain ⟨i, -, rfl⟩ := List.mem_map.mp hb'
      rw [hh]; exact hb.ne (hne i)) (by rw [hm, hb.2 _ b.mem_all, hmo]; rfl)
  have hrest : Runs (fun inv => andThen (setBlockPin inv .aec (aecLevel ph acc) t)
      (runAccess inv ⟨s.vic.raster, c, ph⟩ (s.slotBa ph c) (aecLevel ph acc) acc)) u := ht2.andThen hu
  refine ⟨u, fun n hn => ?_, ⟨?_, ha.env.trans hqq.rest.2.1, ha.pending.trans hqq.rest.2.2.1, ?_, ha.wired,
    hqq.wiring.trans ha.wiring, ?_, fun hb => ?_, fun hb => ?_, fun hb i => ?_, ?_⟩⟩
  · unfold runSlot
    rw [hd]
    exact ht.andThen (g := fun inv s1 => andThen (setBlockPin inv .aec (aecLevel ph acc) s1)
      (runAccess inv ⟨s.vic.raster, c, ph⟩ (s.slotBa ph c) (aecLevel ph acc) acc)) hrest n hn
  · have := ha.vic
    simp only [haddr, hvic] at this
    exact this
  · rw [hf]; exact State.accessCtr_congr hvic hctr _ _
  · obtain ⟨cs, h1, h2⟩ := ha.out
    obtain ⟨ds, h3, h4⟩ := hqq.calls
    refine ⟨cs ++ ds, ?_, fun e he => ?_⟩
    · rw [h1, h3]; simp only [haddr, hvic, List.cons_append, List.append_assoc]
    · rcases List.mem_append.mp he with he | he
      · exact h2 e he
      · exact h4 e he
  · rw [State.blockLevel_eq, (hhu .ba).trans (hh _), hbc hb rfl (fun i => by simp),
      hl2.pin (fun b hb' => by
        rw [List.mem_singleton.mp hb', hq.blockHandle]; exact hb.ne (by simp))
        (by rw [hq.pinMode, hb.2 _ (BlockPin.mem_all _)]; rfl)]
    exact hv (hb.2 _ (BlockPin.mem_all _))
  · rw [State.blockLevel_eq, (hhu .aec).trans (hh _), hbc hb rfl (fun i => by simp)]
    have := hv2 (by rw [hq.blockHandle, hq.pinMode]; exact hb.2 _ (BlockPin.mem_all _))
    rwa [hq.blockHandle] at this
  · have := ha.address (hb.transfer hm hh) i
    simpa only [haddr] using this
  · exact (hl.trans hq.wiring hq.rest.2.1 hl2).trans hqq.wiring hqq.rest.2.1 ha.levels

/-- A slot that is a c-access stops where the access does. -/
theorem runSlot_stops {s : State} (hr : s.Ready slotBlockPins) {ph : Phase} {c : BitVec 7}
    (hd : slotDecode ph c s.vic.badLine s.vic.dma = .ok .videoMatrixColor) (hv : 40 ≤ s.vic.vmli.toNat) {n : Nat}
    (hn : 0 < n) : runSlot (invoke n) ph c s = violate (.lineCacheIndex s.vic.vmli) := by
  obtain ⟨t, ht, hq, -⟩ := setBlockPin_quiet hr (b := .ba) (by decide) (s.slotBa ph c)
  obtain ⟨t2, ht2, hq2, -⟩ := setBlockPin_quiet (hq.ready hr) (b := .aec) (by decide) (aecLevel ph .videoMatrixColor)
  have hvic : t2.vic = s.vic := hq2.rest.1.trans hq.rest.1
  unfold runSlot
  simp only [hd, ht n hn, ht2 n hn, andThen_next]
  rw [← hvic] at hv ⊢
  exact videoMatrixAccess_stops ((hq2.ready (hq.ready hr)).mono addressBlockPins_slot) hv _ _ _ hn

/-! ## One half-cycle step -/

/-- The block's state after sub-steps 1 and 2 (R122 to R125). -/
def Vic.clocked (v : Vic) : Vic :=
  if v.atLineEnd then
    ({ v.advance.publish with
        irqRequestRaster := v.advance.irqRequestRaster || v.advance.publish.rasterMatch } : Vic).sampleDen
  else v.advance

/-- The block's state after sub-steps 1 to 5: what the access of the step sees. -/
def Vic.ticked (v : Vic) : Vic := v.clocked.settle

/-- Whether a step raises the raster interrupt (R124). -/
def Vic.raises (v : Vic) : Bool := v.atLineEnd && v.advance.publish.rasterMatch

@[simp] theorem Vic.lineTransition_coord (v : Vic) :
    v.lineTransition.phase = v.phase ∧ v.lineTransition.cycle = v.cycle ∧ v.lineTransition.raster = v.raster := by
  unfold Vic.lineTransition
  split
  · simp
  · repeat' split
    all_goals simp

@[simp] theorem Vic.settle_phase (v : Vic) : v.settle.phase = v.phase := by simp [Vic.settle]
@[simp] theorem Vic.settle_cycle (v : Vic) : v.settle.cycle = v.cycle := by simp [Vic.settle]
@[simp] theorem Vic.settle_raster (v : Vic) : v.settle.raster = v.raster := by simp [Vic.settle]

@[simp] theorem Vic.clocked_coord (v : Vic) :
    v.clocked.phase = v.advance.phase ∧ v.clocked.cycle = v.advance.cycle ∧ v.clocked.raster = v.advance.raster := by
  unfold Vic.clocked; split <;> simp

@[simp] theorem Vic.ticked_phase (v : Vic) : v.ticked.phase = v.advance.phase := by simp [Vic.ticked]
@[simp] theorem Vic.ticked_cycle (v : Vic) : v.ticked.cycle = v.advance.cycle := by simp [Vic.ticked]
@[simp] theorem Vic.ticked_raster (v : Vic) : v.ticked.raster = v.advance.raster := by simp [Vic.ticked]

/-- The cycle stays in 1..65 (R17). -/
theorem Vic.advance_cycle_range {v : Vic} (h : v.CoordOk) : 1 ≤ v.advance.cycle.toNat ∧ v.advance.cycle.toNat ≤ 65 := by
  obtain ⟨h1, h2, -⟩ := h
  unfold Vic.advance
  split
  · exact ⟨h1, h2⟩
  · split
    · simp
    · rename_i hne
      have hne' : v.cycle.toNat ≠ 65 := hne
      have : (v.cycle + 1).toNat = v.cycle.toNat + 1 := by
        rw [BitVec.toNat_add]; simp; omega
      simp only [this]; omega

/-- A slot in range decodes (R140, R141). -/
theorem slotDecode_ok {ph : Phase} {c : BitVec 7} (h1 : 1 ≤ c.toNat) (h2 : c.toNat ≤ 65) (b : Bool) (d : Fin 8 → Bool) :
    slotDecode ph c b d = .ok (match ph with
      | .one => slotDecode1 c.toNat d
      | .two => slotDecode2 c.toNat b d) := by
  unfold slotDecode
  rw [if_neg (by simp only [Config.hw]; omega)]
  cases ph <;> rfl

/-- Phase 1 never decodes to a c-access (R140). -/
theorem slotDecode1_ne (c : Nat) (d : Fin 8 → Bool) : slotDecode1 c d ≠ .videoMatrixColor := by
  unfold slotDecode1
  repeat' split
  all_goals simp

/-- A c-access stands only in cycles 15 to 54 (R141). -/
theorem slotDecode2_videoMatrix {c : Nat} {b : Bool} {d : Fin 8 → Bool} (h : slotDecode2 c b d = .videoMatrixColor) :
    15 ≤ c ∧ c ≤ 54 := by
  unfold slotDecode2 at h
  split at h
  · split at h <;> simp at h
  · split at h
    · rename_i hc; exact hc
    · simp at h

/-- `vmli` is untouched by sub-steps 1 to 5, but for the reload at (14, phase 1) (R191). -/
theorem Vic.ticked_vmli (v : Vic) :
    v.ticked.vmli = if v.advance.phase = .one ∧ v.advance.cycle = 14 then 0 else v.vmli := by
  have hc : v.clocked.vmli = v.vmli := by unfold Vic.clocked; split <;> simp
  unfold Vic.ticked Vic.settle Vic.lineTransition
  simp only [Vic.leaveIdle_vmli, Vic.recomputeBadLine_phase, Vic.recomputeBadLine_raster, Vic.recomputeBadLine_cycle,
    (Vic.clocked_coord v).1, (Vic.clocked_coord v).2.1, (Vic.clocked_coord v).2.2]
  cases hp : v.advance.phase with
  | two => simp [hc]
  | one =>
    simp only [true_and]
    by_cases h14 : v.advance.cycle = 14
    · rw [if_neg (by rw [h14]; exact fun h => absurd h.2 (by decide)), if_pos h14, if_pos h14]; rfl
    · simp only [if_neg h14]
      repeat' split
      all_goals simp [hc]

theorem Vic.advance_of_one {v : Vic} (h : v.phase = .one) : v.advance = { v with phase := .two } := by
  unfold Vic.advance; rw [h]

theorem Vic.advance_of_two_phase {v : Vic} (h : v.phase = .two) : v.advance.phase = .one := by
  unfold Vic.advance; rw [h]; dsimp only; split <;> rfl

/-- When the step's access is a c-access, its index is in range (R145 corner case 2). -/
theorem Vic.ticked_vmli_lt {v : Vic} (hk : v.CoordOk) (hi : v.CIndexOk)
    (h : slotDecode v.ticked.phase v.ticked.cycle v.ticked.badLine v.ticked.dma = .ok .videoMatrixColor) :
    v.ticked.vmli.toNat < 40 := by
  have hr := Vic.advance_cycle_range hk
  rw [Vic.ticked_phase, Vic.ticked_cycle, slotDecode_ok hr.1 hr.2] at h
  have h' := Except.ok.inj h
  unfold Vic.CIndexOk cSlotsDone at hi
  obtain ⟨k1, k2, -⟩ := hk
  rw [Vic.ticked_vmli]
  cases hp : v.phase with
  | one =>
    rw [Vic.advance_of_one hp] at h' ⊢
    have hc := slotDecode2_videoMatrix h'
    simp only [hp] at hi hc ⊢
    rw [if_neg (by simp)]
    repeat' split at hi
    all_goals omega
  | two =>
    rw [Vic.advance_of_two_phase hp] at h'
    exact absurd h' (slotDecode1_ne _ _)

/-- What one half-cycle step leaves, from `s`. -/
structure TickDone (s u : State) (acc : AccessType) : Prop where
  access  : slotDecode s.vic.ticked.phase s.vic.ticked.cycle s.vic.ticked.badLine s.vic.ticked.dma = .ok acc
  vic     : u.vic = s.vic.ticked.afterAccess acc
              ((((s.setVic s.vic.ticked).accessAddr s.vic.ticked.cycle acc).map u.busData).getD 0)
  env     : u.env = s.env
  pending : u.pending = s.pending
  freeCtr : u.freeCtr = (s.setVic s.vic.ticked).accessCtr s.vic.ticked.cycle acc
  wired   : u.Wired
  wiring  : SameWiring s u
  out     : ∃ cs, u.out = .access ⟨s.vic.ticked.raster, s.vic.ticked.cycle, s.vic.ticked.phase, acc,
              (s.setVic s.vic.ticked).accessAddr s.vic.ticked.cycle acc,
              ((s.setVic s.vic.ticked).accessAddr s.vic.ticked.cycle acc).map u.busData, s.vic.ticked.accessBlank acc,
              (s.setVic s.vic.ticked).slotBa s.vic.ticked.phase s.vic.ticked.cycle,
              aecLevel s.vic.ticked.phase acc⟩ :: cs ++ s.out ∧ ∀ e ∈ cs, e.isCall = true
  irq     : s.BlockPinsOk → u.blockLevel .irq = if s.vic.raises then .low else s.blockLevel .irq
  ba      : s.BlockPinsOk → u.blockLevel .ba = (s.setVic s.vic.ticked).slotBa s.vic.ticked.phase s.vic.ticked.cycle
  aec     : s.BlockPinsOk → u.blockLevel .aec = aecLevel s.vic.ticked.phase acc
  address : s.BlockPinsOk → ∀ i : Fin 14,
              u.blockLevel (.a i) = addressLevel ((s.setVic s.vic.ticked).accessAddr s.vic.ticked.cycle acc) i
  levels  : HoldsOthers s u (if s.vic.raises then stepBlockPins else slotBlockPins)

/-- Sub-steps 1 and 2, where the block can set its IRQ pin. -/
theorem clocked_ready {s : State} (hr : s.Ready [.irq]) : ∃ t,
    Runs (fun inv => if s.vic.atLineEnd then rasterChange inv (s.setVic s.vic.advance) else .next (s.setVic s.vic.advance)) t
      ∧ t.vic = s.vic.clocked ∧ Quiet (s.setVic s.vic.clocked) t
      ∧ HoldsOthers s t (if s.vic.raises then [.irq] else [])
      ∧ (s.BlockPinsOk → t.blockLevel .irq = if s.vic.raises then .low else s.blockLevel .irq) := by
  have hr0 : ∀ v, (s.setVic v).Ready [.irq] := fun v => hr.congr rfl rfl rfl
  have hrefl : Quiet (s.setVic s.vic.clocked) (s.setVic s.vic.clocked) := Quiet.rfl' (hr0 _).wired
  have hnone : ∀ v, HoldsOthers s (s.setVic v) [] := fun v => HoldsBut.of_eq rfl rfl _
  unfold Vic.raises
  by_cases hend : s.vic.atLineEnd = true
  · have hcl : s.vic.clocked = ({ s.vic.advance.publish with
        irqRequestRaster := s.vic.advance.irqRequestRaster || s.vic.advance.publish.rasterMatch } : Vic).sampleDen := by
      unfold Vic.clocked; rw [if_pos hend]
    simp only [hend, if_true, Bool.true_and]
    unfold rasterChange
    by_cases hm : s.vic.advance.publish.rasterMatch = true
    · obtain ⟨t, ht, hq, hl, hv⟩ := setBlockPin_quiet
        (hr0 ({ s.vic.advance.publish with irqRequestRaster := true } : Vic)) (b := .irq) (by simp) .low
      have hvt : t.vic = ({ s.vic.advance.publish with irqRequestRaster := true } : Vic) := hq.rest.1
      simp only [hm, if_true]
      refine ⟨t.setVic t.vic.sampleDen, fun n hn => ?_, ?_, ?_, ?_, fun hb => ?_⟩
      · dsimp only
        rw [if_pos (show (s.setVic s.vic.advance).vic.publish.rasterMatch = true from hm)]
        show andThen (setBlockPin _ _ _ _) _ = _
        exact (congrArg (fun r => andThen r _) (ht n hn)).trans rfl
      · rw [hcl, hm, State.setVic_vic, hvt, Bool.or_true]
      · refine ⟨⟨?_, hq.rest.2.1, hq.rest.2.2.1, hq.rest.2.2.2⟩, ((hq.ready (hr0 _)).congr rfl rfl rfl).wired,
          hq.wiring, hq.calls⟩
        rw [hcl, hm, State.setVic_vic, State.setVic_vic, hvt, Bool.or_true]
      · exact hl.congr rfl rfl rfl rfl rfl
      · have hb' := hv (hb.2 _ (BlockPin.mem_all .irq))
        have hh : t.blockHandle .irq = s.blockHandle .irq := hq.blockHandle _
        rw [State.blockLevel_eq]
        show t.pinLevel (t.blockHandle .irq) = _
        rw [hh]; exact hb'
    · have hm' : s.vic.advance.publish.rasterMatch = false := by simpa using hm
      have hcl' : s.vic.clocked = s.vic.advance.publish.sampleDen := by
        rw [hcl, hm', Bool.or_false]; rfl
      simp only [hm']
      refine ⟨(s.setVic s.vic.advance.publish).setVic s.vic.advance.publish.sampleDen, fun n _ => ?_, ?_, ?_, hnone _,
        fun _ => rfl⟩
      · dsimp only
        rw [if_neg (show ¬(s.setVic s.vic.advance).vic.publish.rasterMatch = true from hm)]; rfl
      · rw [hcl']; rfl
      · rw [hcl'] at hrefl ⊢; exact hrefl
  · have hcl : s.vic.clocked = s.vic.advance := by unfold Vic.clocked; rw [if_neg hend]
    simp only [hend, Bool.false_and]
    refine ⟨_, Runs.pure _, ?_, ?_, hnone _, fun _ => rfl⟩
    · rw [hcl]; rfl
    · rw [hcl] at hrefl ⊢; exact hrefl

/-- STEP completes from a state that is ready for it. -/
theorem vicStep_runs {s : State} (h : s.TickReady) : ∃ u acc, Runs (fun inv => vicStep inv s) u ∧ TickDone s u acc := by
  obtain ⟨t, ht, hvt, hq, hl, hirq⟩ := clocked_ready (h.ready.mono (cs := [.irq]) (by decide))
  have hset : t.vic.settle = s.vic.ticked := by rw [hvt]; rfl
  have hrt : t.Ready slotBlockPins := hq.ready ((h.ready.mono slotBlockPins_step).congr rfl rfl rfl)
  have hr2 : (t.setVic s.vic.ticked).Ready slotBlockPins := hrt.congr rfl rfl rfl
  have hrange := Vic.advance_cycle_range h.coord
  have hdec := slotDecode_ok (ph := s.vic.ticked.phase) (c := s.vic.ticked.cycle)
    (by rw [Vic.ticked_cycle]; exact hrange.1) (by rw [Vic.ticked_cycle]; exact hrange.2) s.vic.ticked.badLine s.vic.ticked.dma
  generalize hacc : (match s.vic.ticked.phase with
      | .one => slotDecode1 s.vic.ticked.cycle.toNat s.vic.ticked.dma
      | .two => slotDecode2 s.vic.ticked.cycle.toNat s.vic.ticked.badLine s.vic.ticked.dma) = acc at hdec
  obtain ⟨u, hu, hd⟩ := runSlot_done hr2 (ph := s.vic.ticked.phase) (c := s.vic.ticked.cycle) (acc := acc) hdec
    (fun e => Vic.ticked_vmli_lt h.coord h.cIndex (e ▸ hdec))
  have hm : ∀ q, t.pinMode q = s.pinMode q := hq.pinMode
  have hh : ∀ b, t.blockHandle b = s.blockHandle b := hq.blockHandle
  have hctr : t.freeCtr = s.freeCtr := hq.rest.2.2.2
  have hadr : (t.setVic s.vic.ticked).accessAddr s.vic.ticked.cycle acc
      = (s.setVic s.vic.ticked).accessAddr s.vic.ticked.cycle acc := State.accessAddr_congr (s := s.setVic s.vic.ticked)
        (u := t.setVic s.vic.ticked) rfl hctr _ _
  have hba : (t.setVic s.vic.ticked).slotBa s.vic.ticked.phase s.vic.ticked.cycle
      = (s.setVic s.vic.ticked).slotBa s.vic.ticked.phase s.vic.ticked.cycle := rfl
  have hb2 : s.BlockPinsOk → (t.setVic s.vic.ticked).BlockPinsOk := fun hb => hb.transfer hm hh
  have hslot : HoldsOthers t u slotBlockPins := hd.levels.congr rfl rfl rfl rfl rfl
  refine ⟨u, acc, fun n hn => ?_, ⟨hdec, ?_, hd.env.trans hq.rest.2.1, hd.pending.trans hq.rest.2.2.1, ?_, hd.wired,
    SameWiring.trans hq.wiring hd.wiring, ?_, fun hb => ?_, fun hb => ?_, fun hb => ?_, fun hb i => ?_, ?_⟩⟩
  · refine Runs.andThen ht (g := finishStep) (fun n hn => ?_) n hn
    unfold finishStep
    rw [hset]
    exact hu n hn
  · have := hd.vic; rw [hadr] at this; exact this
  · rw [hd.freeCtr]; exact State.accessCtr_congr (s := s.setVic s.vic.ticked) (u := t.setVic s.vic.ticked) rfl hctr _ _
  · obtain ⟨cs, h1, h2⟩ := hd.out
    obtain ⟨ds, h3, h4⟩ := hq.calls
    refine ⟨cs ++ ds, ?_, fun e he => ?_⟩
    · rw [h1, hadr, hba]
      simp only [State.setVic_vic, State.setVic_out] at h3 ⊢
      rw [h3]
      simp only [List.cons_append, List.append_assoc]
    · rcases List.mem_append.mp he with he | he
      · exact h2 e he
      · exact h4 e he
  · have hirq' := hirq hb
    rw [State.blockLevel_eq, hd.wiring.blockHandle hd.env]
    rw [hd.levels.pin (fun b hbm => (hb2 hb).ne fun e => absurd (e ▸ hbm) (by decide))
      (by rw [(hb2 hb).2 _ (BlockPin.mem_all _)]; rfl)]
    exact hirq'
  · rw [hd.ba (hb2 hb)]; rfl
  · exact hd.aec (hb2 hb)
  · rw [hd.address (hb2 hb) i, hadr]
  · have := hl.trans (t := t) hq.wiring hq.rest.2.1 hslot
    refine this.mono ?_
    cases s.vic.raises
    · exact fun b hb => hb
    · decide

/-- VIC_TICK is that step. -/
theorem vicStep_done {s : State} (h : s.TickReady) :
    ∃ u acc, vicStep (invoke s.env.fuel) s = .next u ∧ TickDone s u acc := by
  obtain ⟨u, acc, hu, hd⟩ := vicStep_runs h
  exact ⟨u, acc, hu _ h.ready.fuel, hd⟩

/-- The board is as ready after a step as before it. -/
theorem TickDone.ready {s u : State} {acc : AccessType} (h : TickDone s u acc) {bs : List BlockPin} (hr : s.Ready bs) :
    u.Ready bs := hr.transfer h.wired h.wiring h.env

theorem SlotDone.ready {s u : State} {ph : Phase} {c : BitVec 7} {acc : AccessType} (h : SlotDone s u ph c acc)
    {bs : List BlockPin} (hr : s.Ready bs) : u.Ready bs := hr.transfer h.wired h.wiring h.env

end Sys2Proof.Machine
end

