-- ==== Sys2Proof/Laws/Fields.lean ====
section
/-! SUPPORT. The values of the parameters, and every field of the block after sub-steps 1 to 5 of a step and after an access. -/
namespace Sys2Proof

/-! ## The parameters of R4, by value -/

@[simp] theorem Config.hw_cyclesPerLine : Config.hw.cyclesPerLine = 65 := (rfl)
@[simp] theorem Config.hw_linesPerFrame : Config.hw.linesPerFrame = 263 := (rfl)
@[simp] theorem Config.hw_badLineFirst : Config.hw.badLineFirst = 0x30 := (rfl)
@[simp] theorem Config.hw_badLineLast : Config.hw.badLineLast = 0xF7 := (rfl)
@[simp] theorem Config.hw_mcbaseEnd : Config.hw.mcbaseEnd = 63 := (rfl)
@[simp] theorem Config.hw_refreshReset : Config.hw.refreshReset = 255 := (rfl)
@[simp] theorem Config.hw_idleAddr : Config.hw.idleAddr = 0x3FFF := (rfl)
@[simp] theorem Config.hw_idleAddrEcm : Config.hw.idleAddrEcm = 0x39FF := (rfl)
@[simp] theorem Config.hw_refreshBase : Config.hw.refreshBase = 0x3F00 := (rfl)
@[simp] theorem Config.hw_spritePtrOffset : Config.hw.spritePtrOffset = 0x3F8 := (rfl)
@[simp] theorem Config.hw_refreshFirst : Config.hw.refreshFirst = 11 := (rfl)
@[simp] theorem Config.hw_refreshLast : Config.hw.refreshLast = 15 := (rfl)
@[simp] theorem Config.hw_gFirst : Config.hw.gFirst = 16 := (rfl)
@[simp] theorem Config.hw_gLast : Config.hw.gLast = 55 := (rfl)
@[simp] theorem Config.hw_cFirst : Config.hw.cFirst = 15 := (rfl)
@[simp] theorem Config.hw_cLast : Config.hw.cLast = 54 := (rfl)
@[simp] theorem Config.hw_baLead : Config.hw.baLead = 3 := (rfl)
@[simp] theorem Config.hw_denSampleLine : Config.hw.denSampleLine = 0x30 := (rfl)
@[simp] theorem Config.hw_floatReadsAs : Config.hw.floatReadsAs = false := (rfl)

namespace Machine

/-! ## Fields after an access -/
@[simp] theorem Vic.afterAccess_coord (v : Vic) (acc : AccessType) (d : BitVec 12) :
    (v.afterAccess acc d).phase = v.phase ∧ (v.afterAccess acc d).cycle = v.cycle ∧ (v.afterAccess acc d).raster = v.raster := by
  unfold Vic.afterAccess; cases acc <;> [simp; simp; (dsimp only; split <;> simp); simp; simp; simp; simp]

@[simp] theorem Vic.afterAccess_rest (v : Vic) (acc : AccessType) (d : BitVec 12) :
    (v.afterAccess acc d).den = v.den ∧ (v.afterAccess acc d).badLine = v.badLine
      ∧ (v.afterAccess acc d).rasterLatch = v.rasterLatch ∧ (v.afterAccess acc d).rasterLow = v.rasterLow
      ∧ (v.afterAccess acc d).rasterHigh = v.rasterHigh ∧ (v.afterAccess acc d).irqRequestRaster = v.irqRequestRaster
      ∧ (v.afterAccess acc d).vcbase = v.vcbase ∧ (v.afterAccess acc d).rc = v.rc ∧ (v.afterAccess acc d).idle = v.idle
      ∧ (v.afterAccess acc d).regs = v.regs := by
  unfold Vic.afterAccess; cases acc <;> [simp; simp; (dsimp only; split <;> simp); simp; simp; simp; simp]

theorem Vic.afterAccess_ref (v : Vic) (acc : AccessType) (d : BitVec 12) :
    (v.afterAccess acc d).ref = if acc = .refresh then v.ref - 1 else v.ref := by
  unfold Vic.afterAccess; cases acc <;> [simp; simp; (dsimp only; split <;> simp); simp; simp; simp; simp]

theorem Vic.afterAccess_sprPtr (v : Vic) (acc : AccessType) (d : BitVec 12) :
    (v.afterAccess acc d).sprPtr = if (∃ n, acc = .spritePointer n) then d.setWidth 8 else v.sprPtr := by
  unfold Vic.afterAccess; cases acc <;> [simp; simp; (dsimp only; split <;> simp); simp; simp; simp; simp]

theorem Vic.afterAccess_counter (v : Vic) {acc : AccessType} (h : acc ≠ .videoMatrixColor) (d : BitVec 12) :
    (v.afterAccess acc d).vc = v.vc ∧ (v.afterAccess acc d).vmli = v.vmli ∧ (v.afterAccess acc d).lineCache = v.lineCache := by
  unfold Vic.afterAccess; cases acc <;> [simp; simp; exact absurd rfl h; simp; simp; simp; simp]

theorem Vic.afterAccess_sprite (v : Vic) (acc : AccessType) (d : BitVec 12) (n : Fin 8) :
    (v.afterAccess acc d).sprites[n] = if acc = .spriteData n then { v.sprites[n] with mc := v.sprites[n].mc + 1 } else v.sprites[n] := by
  unfold Vic.afterAccess
  cases acc <;> [simp; simp; (dsimp only; split <;> simp); simp; simp; skip; simp]
  rename_i m
  simp only [Vic.countSprite, Fin.getElem_fin, Vector.getElem_set, AccessType.spriteData.injEq, Fin.val_inj]
  split
  · rename_i h; subst h; rfl
  · rfl

/-! ## Fields before the access -/
theorem Vic.sampleDen_den (v : Vic) :
    v.sampleDen.den = if v.raster = Config.hw.denSampleLine then v.regs.denBit else v.den := by
  unfold Vic.sampleDen; split <;> rfl

theorem Vic.clocked_den (v : Vic) : v.clocked.den = if v.EndsLine ∧ v.advance.raster.toNat = 0x30 then v.regs.denBit else v.den := by
  have he : v.atLineEnd = true ↔ v.EndsLine := by unfold Vic.atLineEnd; simp [Config.hw]
  have hl : v.advance.raster = Config.hw.denSampleLine ↔ v.advance.raster.toNat = 0x30 := by
    rw [← BitVec.toNat_inj]; rfl
  unfold Vic.clocked
  by_cases h : v.atLineEnd = true
  · rw [if_pos h, Vic.sampleDen_den]
    simp only [Vic.publish_raster, Vic.publish_regs, Vic.publish_den, Vic.advance_regs, Vic.advance_den]
    by_cases h2 : v.advance.raster.toNat = 0x30
    · rw [if_pos (hl.mpr h2), if_pos ⟨he.mp h, h2⟩]
    · rw [if_neg (fun k => h2 (hl.mp k)), if_neg (fun k => h2 k.2)]
  · rw [if_neg h, if_neg (fun k => h (he.mpr k.1))]; simp

@[simp] theorem Vic.clocked_rest (v : Vic) : v.clocked.badLine = v.badLine ∧ v.clocked.rasterLatch = v.rasterLatch
    ∧ v.clocked.vc = v.vc ∧ v.clocked.vcbase = v.vcbase ∧ v.clocked.rc = v.rc ∧ v.clocked.vmli = v.vmli
    ∧ v.clocked.idle = v.idle ∧ v.clocked.lineCache = v.lineCache ∧ v.clocked.ref = v.ref ∧ v.clocked.sprites = v.sprites
    ∧ v.clocked.sprPtr = v.sprPtr ∧ v.clocked.regs = v.regs := by
  unfold Vic.clocked; split <;> simp

@[simp] theorem Vic.lineTransition_rest (v : Vic) : v.lineTransition.den = v.den ∧ v.lineTransition.badLine = v.badLine
    ∧ v.lineTransition.rasterLatch = v.rasterLatch ∧ v.lineTransition.rasterLow = v.rasterLow
    ∧ v.lineTransition.rasterHigh = v.rasterHigh ∧ v.lineTransition.irqRequestRaster = v.irqRequestRaster
    ∧ v.lineTransition.lineCache = v.lineCache ∧ v.lineTransition.sprPtr = v.sprPtr ∧ v.lineTransition.regs = v.regs := by
  unfold Vic.lineTransition
  split
  · simp
  · repeat' split
    all_goals simp

@[simp] theorem Vic.ticked_rest (v : Vic) : v.ticked.den = v.clocked.den ∧ v.ticked.rasterLatch = v.rasterLatch
    ∧ v.ticked.rasterLow = v.clocked.rasterLow ∧ v.ticked.rasterHigh = v.clocked.rasterHigh
    ∧ v.ticked.irqRequestRaster = v.clocked.irqRequestRaster
    ∧ v.ticked.lineCache = v.lineCache ∧ v.ticked.sprPtr = v.sprPtr ∧ v.ticked.regs = v.regs := by
  simp [Vic.ticked, Vic.settle]

theorem Vic.ticked_badLine (v : Vic) : v.ticked.badLine = badLineOf v.advance.raster v.regs.yscroll v.ticked.den := by
  simp [Vic.ticked, Vic.settle, Vic.recomputeBadLine]


/-- The transition of a slot (R121), by the cycle's number. -/
theorem Vic.lineTransition_eq (v : Vic) : v.lineTransition =
    if v.InSlot1 1 ∧ v.raster.toNat = 0 then v.frameStart
    else if v.InSlot1 14 then v.lineReload
    else if v.InSlot1 15 then v.mcbaseFirst
    else if v.InSlot1 16 then v.mcbaseSecond
    else if v.InSlot1 55 ∨ v.InSlot1 56 then v.dmaStart
    else if v.InSlot1 58 then v.rowAdvance.mcReload
    else v := by
  have e : ∀ k : BitVec 7, v.cycle = k ↔ v.cycle.toNat = k.toNat := fun k => BitVec.toNat_inj.symm
  have e0 : v.raster = 0 ↔ v.raster.toNat = 0 := BitVec.toNat_inj.symm
  unfold Vic.lineTransition
  rcases (show v.phase = .one ∨ v.phase = .two by cases v.phase <;> simp) with hp | hp
  · simp only [Vic.InSlot1, hp, e, e0, true_and]
    by_cases h1 : v.cycle.toNat = 1 <;> by_cases h2 : v.raster.toNat = 0 <;> simp [h1, h2]
  · simp [Vic.InSlot1, hp]

theorem Vic.ticked_eq (v : Vic) : v.ticked = (v.clocked.recomputeBadLine.lineTransition).leaveIdle := rfl

theorem Vic.inSlot1_congr {v w : Vic} (h1 : v.phase = w.phase) (h2 : v.cycle = w.cycle) (c : Nat) : v.InSlot1 c ↔ w.InSlot1 c := by
  unfold Vic.InSlot1; rw [h1, h2]

theorem Vic.InSlot1.unique {v : Vic} {a b : Nat} (h : v.InSlot1 a) (h' : v.InSlot1 b) : a = b := h.2.symm.trans h'.2

theorem Vic.lineTransition_vcbase (v : Vic) : v.lineTransition.vcbase =
    if v.InSlot1 1 ∧ v.raster.toNat = 0 then 0 else if v.InSlot1 58 then (if v.rc = 7 then v.vc else v.vcbase) else v.vcbase := by
  rw [Vic.lineTransition_eq]
  by_cases h : v.phase = .one
  · simp only [h, true_and, Vic.InSlot1]
    by_cases h1 : v.cycle.toNat = 1
    · simp [h1]; split <;> simp [Vic.frameStart]
    · by_cases h2 : v.cycle.toNat = 58
      · simp [h2, Vic.rowAdvance, Vic.mcReload]
      · simp only [h1, h2, false_and, if_false]
        repeat' split
        all_goals simp
  · simp [Vic.InSlot1, h]

theorem Vic.lineTransition_rc (v : Vic) : v.lineTransition.rc =
    if v.InSlot1 14 then (if v.badLine then 0 else v.rc)
    else if v.InSlot1 58 then (if v.rc ≠ 7 ∨ v.badLine = true then v.rc + 1 else v.rc) else v.rc := by
  rw [Vic.lineTransition_eq]
  by_cases h : v.phase = .one
  · simp only [h, true_and, Vic.InSlot1]
    by_cases h1 : v.cycle.toNat = 14
    · simp [h1, Vic.lineReload]
    · by_cases h2 : v.cycle.toNat = 58
      · simp [h2, Vic.rowAdvance, Vic.mcReload]
      · simp only [h1, h2, if_false]
        repeat' split
        all_goals simp
  · simp [Vic.InSlot1, h]

theorem Vic.lineTransition_idle (v : Vic) : v.lineTransition.idle =
    if v.InSlot1 58 then (if v.rc = 7 then true else v.idle) else v.idle := by
  rw [Vic.lineTransition_eq]
  by_cases h : v.phase = .one
  · simp only [h, true_and, Vic.InSlot1]
    by_cases h2 : v.cycle.toNat = 58
    · simp [h2, Vic.rowAdvance, Vic.mcReload]
    · simp only [h2, if_false]
      repeat' split
      all_goals simp
  · simp [Vic.InSlot1, h]

theorem Vic.lineTransition_vc (v : Vic) : v.lineTransition.vc = if v.InSlot1 14 then v.vcbase else v.vc := by
  rw [Vic.lineTransition_eq]
  by_cases h : v.phase = .one
  · simp only [h, true_and, Vic.InSlot1]
    by_cases h2 : v.cycle.toNat = 14
    · simp [h2, Vic.lineReload]
    · simp only [h2, if_false]
      repeat' split
      all_goals simp
  · simp [Vic.InSlot1, h]

theorem Vic.lineTransition_vmli (v : Vic) : v.lineTransition.vmli = if v.InSlot1 14 then 0 else v.vmli := by
  rw [Vic.lineTransition_eq]
  by_cases h : v.phase = .one
  · simp only [h, true_and, Vic.InSlot1]
    by_cases h2 : v.cycle.toNat = 14
    · simp [h2, Vic.lineReload]
    · simp only [h2, if_false]
      repeat' split
      all_goals simp
  · simp [Vic.InSlot1, h]

theorem Vic.lineTransition_ref (v : Vic) : v.lineTransition.ref = if v.InSlot1 1 ∧ v.raster.toNat = 0 then 255 else v.ref := by
  rw [Vic.lineTransition_eq]
  split
  · rfl
  · repeat' split
    all_goals simp

theorem Vic.lineTransition_sprites (v : Vic) : v.lineTransition.sprites =
    if v.InSlot1 15 then v.mcbaseFirst.sprites
    else if v.InSlot1 16 then v.mcbaseSecond.sprites
    else if v.InSlot1 55 ∨ v.InSlot1 56 then v.dmaStart.sprites
    else if v.InSlot1 58 then v.mcReload.sprites
    else v.sprites := by
  rw [Vic.lineTransition_eq]
  by_cases h : v.phase = .one
  · simp only [h, true_and, Vic.InSlot1]
    by_cases h2 : v.cycle.toNat = 1
    · simp [h2]; split <;> simp
    · by_cases h3 : v.cycle.toNat = 14
      · simp [h3]
      · simp only [h2, h3, false_and, if_false]
        repeat' split
        all_goals simp [Vic.mcReload, Vic.mapSprites, Vic.yMatches]
  · simp [Vic.InSlot1, h]

theorem Vic.leaveIdle_idle (v : Vic) : v.leaveIdle.idle = (!v.badLine && v.idle) := by
  unfold Vic.leaveIdle; cases h : v.badLine <;> simp

theorem Vic.ticked_inSlot1 (v : Vic) (c : Nat) : v.clocked.recomputeBadLine.InSlot1 c ↔ v.ticked.InSlot1 c :=
  Vic.inSlot1_congr (by simp) (by simp) c

theorem Vic.ticked_badLine_eq (v : Vic) : v.clocked.recomputeBadLine.badLine = v.ticked.badLine := by
  simp [Vic.ticked, Vic.settle]

theorem Vic.ticked_vcbase (v : Vic) : v.ticked.vcbase =
    if v.ticked.InSlot1 1 ∧ v.ticked.raster.toNat = 0 then 0
    else if v.ticked.InSlot1 58 then (if v.rc = 7 then v.vc else v.vcbase) else v.vcbase := by
  rw [Vic.ticked_eq, Vic.leaveIdle_vcbase, Vic.lineTransition_vcbase]
  simp only [Vic.ticked_inSlot1, ← Vic.ticked_eq]; simp; congr!

theorem Vic.ticked_rc (v : Vic) : v.ticked.rc =
    if v.ticked.InSlot1 14 then (if v.ticked.badLine then 0 else v.rc)
    else if v.ticked.InSlot1 58 then (if v.rc ≠ 7 ∨ v.ticked.badLine = true then v.rc + 1 else v.rc) else v.rc := by
  rw [Vic.ticked_eq, Vic.leaveIdle_rc, Vic.lineTransition_rc]
  simp only [Vic.ticked_inSlot1, ← Vic.ticked_eq, Vic.ticked_badLine_eq]; simp; congr!

theorem Vic.ticked_idle (v : Vic) : v.ticked.idle =
    (!v.ticked.badLine && if v.ticked.InSlot1 58 then (if v.rc = 7 then true else v.idle) else v.idle) := by
  rw [Vic.ticked_eq, Vic.leaveIdle_idle, Vic.lineTransition_idle]
  simp only [Vic.ticked_inSlot1, ← Vic.ticked_eq, (Vic.lineTransition_rest _).2.1, Vic.ticked_badLine_eq]; simp

theorem Vic.ticked_vc (v : Vic) : v.ticked.vc = if v.ticked.InSlot1 14 then v.vcbase else v.vc := by
  rw [Vic.ticked_eq, Vic.leaveIdle_vc, Vic.lineTransition_vc]
  simp only [Vic.ticked_inSlot1, ← Vic.ticked_eq]; simp; congr!

theorem Vic.ticked_vmli_eq (v : Vic) : v.ticked.vmli = if v.ticked.InSlot1 14 then 0 else v.vmli := by
  rw [Vic.ticked_eq, Vic.leaveIdle_vmli, Vic.lineTransition_vmli]
  simp only [Vic.ticked_inSlot1, ← Vic.ticked_eq]; simp; congr!

theorem Vic.ticked_ref (v : Vic) : v.ticked.ref =
    if v.ticked.InSlot1 1 ∧ v.ticked.raster.toNat = 0 then 255 else v.ref := by
  rw [Vic.ticked_eq, Vic.leaveIdle_ref, Vic.lineTransition_ref]
  simp only [Vic.ticked_inSlot1, ← Vic.ticked_eq]; simp

theorem Vic.mapSprites_sprite (v : Vic) (f : Fin 8 → Sprite → Sprite) (n : Fin 8) :
    (v.mapSprites f).sprites[n] = f n v.sprites[n] := by
  simp [Vic.mapSprites]

/-- A sprite after the transition of a slot (R200 to R203). -/
theorem Vic.lineTransition_sprite (v : Vic) (n : Fin 8) : v.lineTransition.sprites[n] =
    if v.InSlot1 15 then
      (if v.sprites[n].yexp then { v.sprites[n] with mcbase := v.sprites[n].mcbase + 2 } else v.sprites[n])
    else if v.InSlot1 16 then v.sprites[n].secondIncrement.endDma
    else if v.InSlot1 55 ∨ v.InSlot1 56 then
      (if v.regs.spriteEnable.getLsbD n.val && v.yMatches n && !v.sprites[n].dma then
        { v.sprites[n] with
          dma := true, mcbase := 0, yexp := if v.regs.spriteYExpand.getLsbD n.val then false else v.sprites[n].yexp }
      else v.sprites[n])
    else if v.InSlot1 58 then
      { v.sprites[n] with
        mc := v.sprites[n].mcbase
        display := if v.sprites[n].dma && v.yMatches n then true else v.sprites[n].display }
    else v.sprites[n] := by
  rw [show v.lineTransition.sprites[n] = _ from congrArg (·[n]) (Vic.lineTransition_sprites v)]
  repeat' split
  all_goals first
    | rfl
    | (simp only [Vic.mcbaseFirst, Vic.mcbaseSecond, Vic.dmaStart, Vic.mcReload, Vic.mapSprites_sprite] <;> simp_all)

/-- A sprite after sub-step 4 (R200 to R203). -/
theorem Vic.ticked_sprite (v : Vic) (n : Fin 8) : v.ticked.sprites[n] =
    if v.ticked.InSlot1 15 then
      (if v.sprites[n].yexp then { v.sprites[n] with mcbase := v.sprites[n].mcbase + 2 } else v.sprites[n])
    else if v.ticked.InSlot1 16 then v.sprites[n].secondIncrement.endDma
    else if v.ticked.InSlot1 55 ∨ v.ticked.InSlot1 56 then
      (if v.regs.spriteEnable.getLsbD n.val && (v.regs.spriteY[n] == v.ticked.raster.setWidth 8) && !v.sprites[n].dma then
        { v.sprites[n] with dma := true, mcbase := 0, yexp := if v.regs.spriteYExpand.getLsbD n.val then false else v.sprites[n].yexp }
      else v.sprites[n])
    else if v.ticked.InSlot1 58 then
      { v.sprites[n] with
        mc := v.sprites[n].mcbase
        display := if v.sprites[n].dma && (v.regs.spriteY[n] == v.ticked.raster.setWidth 8) then true else v.sprites[n].display }
    else v.sprites[n] := by
  have hs : v.clocked.recomputeBadLine.sprites = v.sprites := by simp
  have hr : v.clocked.recomputeBadLine.regs = v.regs := by simp
  have hw : v.clocked.recomputeBadLine.raster = v.ticked.raster := by simp
  have e : v.ticked.sprites = v.clocked.recomputeBadLine.lineTransition.sprites := by simp [Vic.ticked_eq]
  rw [show v.ticked.sprites[n] = v.clocked.recomputeBadLine.lineTransition.sprites[n] from congrArg (·[n]) e]
  rw [Vic.lineTransition_sprite]
  simp only [Vic.ticked_inSlot1, hs, hr, Vic.yMatches, hw]

end Machine

end Sys2Proof
end

