-- ==== Sys2Proof/Laws/Kept.lean ====
section
/-! SUPPORT. What every update keeps: consistent wiring and resolved levels (R11, R13, R81), the coordinate's range (R17), the
counters' invariants (R192, R194, R203). -/
namespace Sys2Proof.Machine

/-- The update of one pin, as a driver (R80). -/
theorem drives_setPin (s : State) (p : Nat) (pin : Pin) (v : Signal) (q : Nat) :
    drives (s.setPin p pin) v q = if q = p then (pin.mode == .output && pin.level == v) else drives s v q := by
  unfold drives
  rw [State.setPin_pins, Arena.find_put]
  by_cases h : q = p
  · rw [if_pos h, if_pos h]
  · rw [if_neg h, if_neg h]

/-- A resolution reads the members, their levels as drivers, and the pull (R81). -/
theorem resolve_congr {s u : State} {tr tr' : Trace} (hm : tr'.members = tr.members) (hp : tr'.pull = tr.pull)
    (h : ∀ p ∈ tr.members, ∀ v, v ≠ .floating → drives u v p = drives s v p) (w : Signal) :
    resolve u tr' w = resolve s tr w := by
  have e : ∀ v, v ≠ .floating → tr'.members.any (drives u v) = tr.members.any (drives s v) := fun v hv => by
    rw [hm, Bool.eq_iff_iff]
    simp only [List.any_eq_true]
    exact exists_congr fun p => and_congr_right fun hp => by rw [h p hp v hv]
  unfold resolve
  rw [e .high (by simp), e .low (by simp), hp]

/-- Resolving again with the resolved level pending changes nothing (R81). -/
theorem resolve_idem (s : State) (tr : Trace) (w l : Signal) :
    resolve s { tr with level := l } (resolve s tr w) = resolve s tr w := by
  unfold resolve
  dsimp only
  split
  · rfl
  · split
    · rfl
    · cases w <;> cases tr.pull <;> simp [Pull.level]

/-- Resolved levels, said by handles. -/
theorem State.resolved_iff {s : State} (hs : s.traces.Sorted) :
    s.Resolved ↔ ∀ t tr, s.traces.find t = some tr → resolve s tr tr.level = tr.level :=
  ⟨fun h _ _ k => h _ (Arena.mem_of_find k), fun h x k => h x.1 x.2 (Arena.find_of_mem hs k)⟩

/-- A pin's change keeps the resolved levels if the pin is on no trace, or drives what it drove. -/
theorem State.Resolved.setPin {s : State} (hw : s.Wired) (h : s.Resolved) {p : Nat} {pin pin' : Pin}
    (hp : s.pins.find p = some pin)
    (hd : pin.trace = none ∨ ∀ v, v ≠ .floating →
      (pin'.mode == .output && pin'.level == v) = (pin.mode == .output && pin.level == v)) : (s.setPin p pin').Resolved := by
  rw [State.resolved_iff (show (s.setPin p pin').traces.Sorted from hw.2.1)]
  intro t tr htr
  rw [resolve_congr (s := s) rfl rfl]
  · exact (State.resolved_iff hw.2.1).mp h t tr htr
  · intro q hq v hv
    rw [drives_setPin]
    split
    · rename_i e; subst e
      obtain ⟨pin2, k1, k2⟩ := hw.member htr hq
      rw [hp] at k1; cases k1
      rcases hd with hd | hd
      · rw [hd] at k2; cases k2
      · rw [hd v hv]; unfold drives; rw [hp]
    · rfl

/-- A trace whose level is a resolution, where the others are resolved (R82). -/
theorem State.Resolved.setTrace {s : State} (hs : s.traces.Sorted) {t : Nat} (tr : Trace) (w : Signal)
    (h : ∀ t' tr', t' ≠ t → s.traces.find t' = some tr' → resolve s tr' tr'.level = tr'.level) :
    (s.setTrace t { tr with level := resolve s tr w }).Resolved := by
  rw [State.resolved_iff (by exact Arena.put_sorted hs _ _)]
  intro t' tr' k
  rw [State.setTrace_traces, Arena.find_put] at k
  show resolve s tr' tr'.level = tr'.level
  by_cases e : t' = t
  · rw [if_pos e] at k; cases k; exact resolve_idem s tr w _
  · rw [if_neg e] at k; exact h t' tr' e k

/-- A pin's change leaves the levels of the traces that it is not on (R80). -/
theorem resolve_setPin_off {s : State} (hw : s.Wired) {p : Nat} {pin : Pin} (hp : s.pins.find p = some pin) {t' : Nat} {tr' : Trace}
    (hne : pin.trace ≠ some t') (ht : s.traces.find t' = some tr') (pin' : Pin) (w : Signal) :
    resolve (s.setPin p pin') tr' w = resolve s tr' w := by
  refine resolve_congr rfl rfl (fun q hq v _ => ?_) w
  rw [drives_setPin, if_neg]
  rintro rfl
  obtain ⟨pin2, k1, k2⟩ := hw.member ht hq
  rw [hp] at k1; cases k1; exact hne k2

/-- A pin that joins a trace it is not on was on none, and joining keeps the wiring (R98). -/
theorem State.Wired.join {s : State} (hw : s.Wired) {p t : Nat} {pin : Pin} {tr : Trace} (hp : s.pins.find p = some pin)
    (ht : s.traces.find t = some tr) (hm : p ∉ tr.members) (hpt : pin.trace = none ∨ pin.trace = some t) :
    pin.trace = none
      ∧ ((s.setTrace t { tr with members := tr.members ++ [p] }).setPin p { pin with trace := some t }).Wired := by
  have hn : pin.trace = none := hpt.resolve_right fun e => by
    obtain ⟨tr2, k1, k2⟩ := hw.traceOf hp e
    rw [ht] at k1; cases k1; exact hm k2
  refine ⟨hn, (State.wired_iff _).mpr ⟨Arena.put_sorted hw.1 _ _, Arena.put_sorted hw.2.1 _ _, fun t' tr' k => ?_, fun q r k => ?_⟩⟩
  · have on : ∀ q, q ≠ p → ∀ x, ((s.setTrace t { tr with members := tr.members ++ [p] }).setPin p
        { pin with trace := some t }).pinOn q x = s.pinOn q x := fun q hq x => by
      unfold State.pinOn
      rw [State.setPin_pins, State.setTrace_pins, Arena.find_put_ne _ hq]
    have onp : ((s.setTrace t { tr with members := tr.members ++ [p] }).setPin p { pin with trace := some t }).pinOn p t = true := by
      unfold State.pinOn
      rw [State.setPin_pins, Arena.find_put_same]; simp
    have old : ∀ t' tr', s.traces.find t' = some tr' → ∀ q ∈ tr'.members, q ≠ p := fun t' tr' k q hq e => by
      obtain ⟨pin2, k1, k2⟩ := hw.member k hq
      rw [e, hp] at k1; cases k1; rw [hn] at k2; cases k2
    rw [State.setPin_traces, State.setTrace_traces, Arena.find_put] at k
    by_cases e : t' = t
    · rw [if_pos e] at k; cases k; subst e
      refine ⟨List.nodup_append.mpr ⟨hw.nodup ht, by simp, fun a ha b hb => ?_⟩, fun q hq => ?_⟩
      · rw [List.mem_singleton.mp hb]; exact old _ _ ht a ha
      · rcases List.mem_append.mp hq with hq | hq
        · rw [on q (old _ _ ht q hq)]; exact (hw.2.2.1 _ (Arena.mem_of_find ht)).2 q hq
        · rw [List.mem_singleton.mp hq]; exact onp
    · rw [if_neg e] at k
      refine ⟨hw.nodup k, fun q hq => ?_⟩
      rw [on q (old _ _ k q hq)]; exact (hw.2.2.1 _ (Arena.mem_of_find k)).2 q hq
  · rw [State.setPin_pins, State.setTrace_pins, Arena.find_put] at k
    unfold State.pointsBack
    by_cases e : q = p
    · rw [if_pos e] at k; cases k; subst e
      simp
    · rw [if_neg e] at k
      have := hw.2.2.2 _ (Arena.mem_of_find k)
      unfold State.pointsBack at this
      dsimp only at this ⊢
      cases hr : r.trace with
      | none => rfl
      | some t' =>
        rw [hr] at this
        dsimp only at this ⊢
        rw [State.setPin_traces, State.setTrace_traces, Arena.find_put]
        by_cases e' : t' = t
        · subst e'
          rw [if_pos rfl]; rw [ht] at this
          simpa using .inl (by simpa using this)
        · rw [if_neg e']; exact this

/-- A new pin or trace keeps the wiring (R84, R97). -/
theorem State.Wired.newPin {s : State} (hw : s.Wired) {p : Nat} (h : s.pins.has p = false) {pin : Pin} (hn : pin.trace = none) :
    (s.setPin p pin).Wired := by
  have hp : s.pins.find p = none := by unfold Arena.has at h; simpa using h
  refine (State.wired_iff _).mpr ⟨Arena.put_sorted hw.1 _ _, hw.2.1, fun t tr k => ?_, fun q r k => ?_⟩
  · refine ⟨hw.nodup k, fun q hq => ?_⟩
    have := (hw.2.2.1 _ (Arena.mem_of_find k)).2 q hq
    unfold State.pinOn at this ⊢
    rw [State.setPin_pins, Arena.find_put_ne]
    · exact this
    · rintro rfl
      dsimp only at this; rw [hp] at this; cases this
  · rw [State.setPin_pins, Arena.find_put] at k
    by_cases e : q = p
    · rw [if_pos e] at k; cases k; rw [hn]; rfl
    · rw [if_neg e] at k; exact hw.2.2.2 _ (Arena.mem_of_find k)

theorem State.Wired.newTrace {s : State} (hw : s.Wired) {t : Nat} (h : s.traces.has t = false) {tr : Trace} (hn : tr.members = []) :
    (s.setTrace t tr).Wired := by
  have ht : s.traces.find t = none := by unfold Arena.has at h; simpa using h
  refine (State.wired_iff _).mpr ⟨hw.1, Arena.put_sorted hw.2.1 _ _, fun t' tr' k => ?_, fun q r k => ?_⟩
  · rw [State.setTrace_traces, Arena.find_put] at k
    by_cases e : t' = t
    · rw [if_pos e] at k; cases k; rw [hn]; simp
    · rw [if_neg e] at k
      exact ⟨hw.nodup k, (hw.2.2.1 _ (Arena.mem_of_find k)).2⟩
  · have := hw.2.2.2 _ (Arena.mem_of_find k)
    unfold State.pointsBack at this ⊢
    dsimp only at this ⊢
    cases hr : r.trace with
    | none => rfl
    | some t' =>
      rw [hr] at this
      dsimp only at this ⊢
      rw [State.setTrace_traces, Arena.find_put_ne]
      · exact this
      · rintro rfl; rw [ht] at this; cases this

/-- Every update of a pin or trace operation keeps the wiring consistent and the levels resolved (R11, R13, R81). -/
theorem Move.wired {s u : State} (h : Move s u) (hw : s.Wired) : u.Wired := by
  cases h with
  | emit e => exact hw
  | pinNew ident m h => exact hw.newPin h rfl
  | traceNew h => exact hw.newTrace h rfl
  | adopts hp hm ht htr => exact hw.setPin hp rfl
  | alone m v hp ht => exact hw.setPin hp rfl
  | modeQuiet hp ht hm hq => exact hw.setPin hp rfl
  | pull pl hp => exact hw.setPin hp rfl
  | listener l hp => exact hw.setPin hp rfl
  | @driven p t pin tr m v w hp ht htr =>
    exact (hw.setPin (pin' := { pin with mode := m, level := v }) hp rfl).setTrace (tr := tr) htr rfl
  | resolves pl w ht => exact hw.setTrace ht rfl
  | @joinsDriving p t pin tr w hp ht hm hpt =>
    exact (hw.join hp ht hm hpt).2.setTrace (tr := { tr with members := tr.members ++ [p] }) (by simp) rfl
  | joins hp ht hm hpt hq => exact (hw.join hp ht hm hpt).2

theorem Move.resolved {s u : State} (h : Move s u) (hw : s.Wired) (hr : s.Resolved) : u.Resolved := by
  have hr' := (State.resolved_iff hw.2.1).mp hr
  cases h with
  | emit e => exact hr
  | @pinNew p ident m h =>
    rw [State.resolved_iff (show (s.setPin p _).traces.Sorted from hw.2.1)]
    intro t tr htr
    rw [resolve_congr (s := s) rfl rfl]
    · exact hr' t tr htr
    · intro q hq v _
      rw [drives_setPin, if_neg]
      rintro rfl
      obtain ⟨pin2, k1, -⟩ := hw.member htr hq
      unfold Arena.has at h; rw [k1] at h; cases h
  | @traceNew t h => exact State.Resolved.setTrace hw.2.1 Trace.fresh .floating fun t' tr' _ k => hr' t' tr' k
  | @adopts p t pin tr hp hm ht htr =>
    refine hr.setPin hw hp (.inr fun v hv => ?_)
    have : pin.mode ≠ .output := fun e => by rw [e] at hm; cases hm
    rw [beq_false_of_ne this]; rfl
  | alone m v hp ht => exact hr.setPin hw hp (.inl ht)
  | @modeQuiet p t pin m hp ht hm hq =>
    refine hr.setPin hw hp (.inr fun v hv => ?_)
    have h1 : m ≠ .output := fun e => by rw [e] at hm; cases hm
    rw [beq_false_of_ne h1]
    rcases hq with hq | hq
    · have : pin.mode ≠ .output := fun e => by rw [e] at hq; cases hq
      rw [beq_false_of_ne this]
    · rw [hq, beq_false_of_ne (Ne.symm hv)]; simp
  | pull pl hp => exact hr.setPin hw hp (.inr fun v _ => rfl)
  | listener l hp => exact hr.setPin hw hp (.inr fun v _ => rfl)
  | @driven p t pin tr m v w hp ht htr =>
    refine State.Resolved.setTrace (s := s.setPin p { pin with mode := m, level := v }) hw.2.1 tr w fun t' tr' hne k => ?_
    rw [resolve_setPin_off hw hp (by rw [ht]; exact fun e => hne (Option.some.inj e).symm) k]
    exact hr' t' tr' k
  | @resolves t tr pl w ht => exact State.Resolved.setTrace hw.2.1 { tr with pull := pl } w fun t' tr' _ k => hr' t' tr' k
  | @joinsDriving p t pin tr w hp ht hm hpt =>
    refine State.Resolved.setTrace (s := (s.setTrace t { tr with members := tr.members ++ [p] }).setPin p { pin with trace := some t })
      (Arena.put_sorted hw.2.1 _ _) { tr with members := tr.members ++ [p] } w fun t' tr' hne k => ?_
    rw [State.setPin_traces, State.setTrace_traces, Arena.find_put_ne _ hne] at k
    exact (resolve_setPin_off hw hp (by rw [(hw.join hp ht hm hpt).1]; simp) k _ _).trans (hr' t' tr' k)
  | @joins p t pin tr hp ht hm hpt hq =>
    have hn := (hw.join hp ht hm hpt).1
    have hno : pin.mode ≠ .output := fun e => by rw [e] at hq; cases hq
    rw [State.resolved_iff (by exact Arena.put_sorted hw.2.1 _ _)]
    intro t' tr' k
    rw [State.setPin_traces, State.setTrace_traces, Arena.find_put] at k
    by_cases e : t' = t
    · rw [if_pos e] at k; cases k
      have e : resolve ((s.setTrace t { tr with members := tr.members ++ [p] }).setPin p { pin with trace := some t })
          { tr with members := tr.members ++ [p] } tr.level = resolve s tr tr.level := by
        have off : ∀ v, v ≠ .floating → (tr.members ++ [p]).any (drives ((s.setTrace t
            { tr with members := tr.members ++ [p] }).setPin p { pin with trace := some t }) v) = tr.members.any (drives s v) := by
          intro v _
          rw [List.any_append, Bool.eq_iff_iff]
          simp only [List.any_cons, List.any_nil, drives_setPin, if_true, beq_false_of_ne hno, Bool.false_and, Bool.or_false,
            List.any_eq_true]
          refine exists_congr fun q => and_congr_right fun hq => ?_
          rw [if_neg (by rintro rfl; exact hm hq)]; rfl
        unfold resolve
        dsimp only
        rw [off .high (by simp), off .low (by simp)]
      rw [e]; exact hr' t tr ht
    · rw [if_neg e] at k
      exact (resolve_setPin_off hw hp (by rw [hn]; simp) k _ _).trans (hr' t' tr' k)

/-- No update removes a pin. -/
theorem Move.has {s u : State} (h : Move s u) {p : Nat} (hp : s.pins.has p = true) : u.pins.has p = true := by
  cases h <;> simp [Arena.has_put, hp]

/-! ## The block -/

theorem VicMove.coord {v w : Vic} (h : VicMove v w) (hv : v.CoordOk) : w.CoordOk := by
  cases h with
  | advance =>
    refine ⟨(Vic.advance_cycle_range hv).1, (Vic.advance_cycle_range hv).2, ?_⟩
    unfold Vic.advance nextRaster
    split
    · exact hv.2.2
    · simp only [Config.hw_cyclesPerLine, Config.hw_linesPerFrame]
      split
      · split
        · simp
        · rename_i h; simp at h
          have := hv.2.2
          simp; omega
      · exact hv.2.2
  | sampleDen => simpa [Vic.CoordOk] using hv
  | settle => simpa [Vic.CoordOk] using hv
  | cacheStore h data => simpa [Vic.CoordOk] using hv
  | countSprite n => simpa [Vic.CoordOk] using hv
  | writeYExpand x => exact hv
  | _ => exact hv

/-- The transition of a slot keeps the counters' invariants, idle but for a bad line, which leaves idle (R193). -/
theorem Vic.lineTransition_counters {v : Vic} (h : v.CountersOk) :
    (v.lineTransition.badLine = false → v.lineTransition.idle = true → v.lineTransition.rc = 7)
      ∧ v.lineTransition.vmli.toNat ≤ 40
      ∧ ∀ n : Fin 8, v.lineTransition.sprites[n].display = true → v.lineTransition.sprites[n].dma = true := by
  obtain ⟨h1, h2, h3⟩ := h
  refine ⟨fun hb hi => ?_, ?_, fun n hd => ?_⟩
  · rw [Vic.lineTransition_idle] at hi
    rw [(Vic.lineTransition_rest _).2.1] at hb
    have h7 : v.rc = 7 := by
      by_cases h7 : v.rc = 7
      · exact h7
      · refine absurd (h1 ?_) h7
        split at hi
        · exact hi
        · exact hi
    rw [Vic.lineTransition_rc, hb, h7]
    by_cases h14 : v.InSlot1 14
    · rw [if_pos h14]; rfl
    · rw [if_neg h14]; split <;> rfl
  · rw [Vic.lineTransition_vmli]
    split
    · simp
    · exact h2
  · rw [Vic.lineTransition_sprite] at hd ⊢
    have h3' := h3 n
    generalize v.sprites[n] = sp at h3' hd ⊢
    split
    · rename_i k
      rw [if_pos k] at hd
      split at hd <;> rename_i k' <;> [rw [if_pos k']; rw [if_neg k']] <;> exact h3' hd
    · rename_i k
      rw [if_neg k] at hd
      split
      · rename_i k
        rw [if_pos k] at hd
        unfold Sprite.endDma Sprite.secondIncrement at hd ⊢
        repeat' split at hd
        all_goals first | (simp at hd; done) | simp_all
      · rename_i k
        rw [if_neg k] at hd
        split
        · rename_i k
          rw [if_pos k] at hd
          split
          · rfl
          · rename_i k'; rw [if_neg k'] at hd; exact h3' hd
        · rename_i k
          rw [if_neg k] at hd
          split
          · rename_i k
            rw [if_pos k] at hd
            dsimp only at hd ⊢
            split at hd
            · rename_i k'; exact (Bool.and_eq_true_iff.mp k').1
            · exact h3' hd
          · rename_i k; rw [if_neg k] at hd; exact h3' hd

theorem VicMove.counters {v w : Vic} (h : VicMove v w) (hv : v.CountersOk) : w.CountersOk := by
  obtain ⟨h1, h2, h3⟩ := hv
  cases h with
  | advance => exact ⟨by simpa using h1, by simpa using h2, by simpa using h3⟩
  | publish => exact ⟨h1, h2, h3⟩
  | sampleDen => exact ⟨by simpa using h1, by simpa using h2, by simpa using h3⟩
  | request b => exact ⟨h1, h2, h3⟩
  | settle =>
    have k := Vic.lineTransition_counters (v := v.recomputeBadLine) ⟨by simpa using h1, by simpa using h2, by simpa using h3⟩
    refine ⟨fun hi => ?_, by simpa [Vic.settle] using k.2.1, by simpa [Vic.settle] using k.2.2⟩
    rw [Vic.settle, Vic.leaveIdle_idle] at hi
    obtain ⟨hb, hi⟩ := Bool.and_eq_true_iff.mp hi
    rw [Vic.settle, Vic.leaveIdle_rc]
    exact k.1 (by simpa using hb) hi
  | refresh => exact ⟨h1, h2, h3⟩
  | cacheStore h data =>
    refine ⟨h1, ?_, h3⟩
    unfold Vic.cacheStore
    dsimp only
    split
    · exact h2
    · rw [BitVec.toNat_add]; simp; omega
  | pointer x => exact ⟨h1, h2, h3⟩
  | countSprite n =>
    refine ⟨h1, h2, fun k hk => ?_⟩
    simp only [Vic.countSprite, Fin.getElem_fin, Vector.getElem_set] at hk ⊢
    have := h3 k
    split
    · rename_i e
      rw [if_pos e] at hk
      have e' : n = k := Fin.ext e
      subst e'; exact this hk
    · rename_i e
      rw [if_neg e] at hk; exact this hk
  | regs r => exact ⟨h1, h2, h3⟩
  | writeYExpand x =>
    refine ⟨h1, h2, fun n hd => ?_⟩
    unfold Vic.writeYExpand at hd ⊢
    rw [Vic.mapSprites_sprite] at hd ⊢
    split at hd
    · rename_i e; rw [if_pos e]; exact h3 n hd
    · rename_i e; rw [if_neg e]; exact h3 n hd
  | latch x => exact ⟨h1, h2, h3⟩

end Sys2Proof.Machine
end

