-- ==== Sys2Proof/Laws/Listener.lean ====
section
/-! SUPPORT. A resolution whose one observer has one listener: what runs, and that the state in which it runs is wired and ready
as the board was. -/
namespace Sys2Proof.Machine

/-- A resolution asked for by a stimulus is that resolution, under the stimulus's own invoker. -/
theorem State.Resolves.exec {s u : State} {i : Instr} {t : Nat} {v : Signal} (h : s.Resolves i t v u) :
    exec i s = resolveAndPush s.invoker t v u := by
  rcases h with ⟨h, tr, rfl, ht, hi, rfl⟩ | ⟨p, pin, w, hp, ho, hpt, hi, rfl, rfl⟩
  · exact exec_setsTrace ht hi
  · rw [exec_setsPin hp hi, pinSetLevel_driving hp ho hpt]; rfl

/-- The state of the resolution has the wiring, the block and the parameters of the state before. -/
theorem State.Resolves.same {s u : State} {i : Instr} {t : Nat} {v : Signal} (h : s.Resolves i t v u) :
    SameWiring s u ∧ SameRest s u ∧ u.out = s.out ∧ (s.Wired → u.Wired) := by
  rcases h with ⟨h, tr, -, -, -, rfl⟩ | ⟨p, pin, w, hp, -, -, -, -, rfl⟩
  · exact ⟨SameWiring.refl _, ⟨rfl, rfl, rfl, rfl⟩, rfl, id⟩
  · exact ⟨SameWiring.setPin_level hp w, ⟨rfl, rfl, rfl, rfl⟩, rfl, fun hw => hw.setPin hp rfl⟩

theorem State.Resolves.invoker {s u : State} {i : Instr} {t : Nat} {v : Signal} (h : s.Resolves i t v u) :
    s.invoker = u.invoker := by unfold State.invoker; rw [h.same.2.1.2.1]

/-- A resolution with a sole observer updates that pin and no other. -/
theorem SoleObserver.resolveAndPush {s : State} {t p : Nat} {tr : Trace} {pin : Pin} (h : SoleObserver s t p tr pin)
    (inv : Invoker) (v : Signal) : resolveAndPush inv t v s
      = andThen (updateLevel inv p (s.setTrace t { tr with level := resolve s tr v })) .next := by
  obtain ⟨ht, ⟨others, hm, hb⟩, -, -, -⟩ := h
  unfold Machine.resolveAndPush
  simp only [ht]
  have := updateAll_blind (s := s.setTrace t { tr with level := resolve s tr v }) inv others [p] hb
  rwa [← hm] at this

/-- The sole observer's listeners run in the new level if there is a change, and not at all otherwise (R83). -/
theorem SoleObserver.push {s : State} {t p : Nat} {tr : Trace} {pin : Pin} (h : SoleObserver s t p tr pin)
    (inv : Invoker) (v : Signal) :
    (adopt pin (resolve s tr v) = pin.level →
      Machine.resolveAndPush inv t v s = .next (s.setTrace t { tr with level := resolve s tr v }))
    ∧ (adopt pin (resolve s tr v) ≠ pin.level →
      Machine.resolveAndPush inv t v s = invokeAll inv p pin.listeners
        ((s.setTrace t { tr with level := resolve s tr v }).setPin p { pin with level := adopt pin (resolve s tr v) })) := by
  rw [h.resolveAndPush]
  obtain ⟨ht, -, hp, hmo, hpt⟩ := h
  have hu : updateLevel inv p (s.setTrace t { tr with level := resolve s tr v })
      = if adopt pin (resolve s tr v) = pin.level then .next (s.setTrace t { tr with level := resolve s tr v })
        else invokeAll inv p pin.listeners ((s.setTrace t { tr with level := resolve s tr v }).setPin p
          { pin with level := adopt pin (resolve s tr v) }) := by
    unfold updateLevel
    simp only [State.setTrace_pins, hp, hmo, Mode.inCap, if_true]
    split
    · rename_i k; rw [hpt] at k; cases k
    · rename_i k; rw [hpt] at k; cases k; simp only [State.setTrace_traces, Arena.find_put_same]
  rw [hu]
  refine ⟨fun e => by rw [if_pos e]; rfl, fun e => ?_⟩
  rw [if_neg e]
  cases invokeAll inv p pin.listeners _ <;> rfl

/-- With one listener: its behaviour runs, with one invocation less, in the state of the call (R108). -/
theorem OneListener.push {s : State} {t p l n : Nat} {tr : Trace} {pin : Pin} (h : OneListener s t p l n tr pin) (v : Signal)
    (hc : adopt pin (resolve s tr v) ≠ pin.level) : Machine.resolveAndPush s.invoker t v s
      = runBehaviour (invoke n) p (s.behaviour l) (s.calling t p l tr pin v) := by
  obtain ⟨hf, ho, hl⟩ := h
  rw [(ho.push s.invoker v).2 hc]
  have hlev : State.pinLevel ((s.setTrace t { tr with level := resolve s tr v }).setPin p
      { pin with level := adopt pin (resolve s tr v) }) p = adopt pin (resolve s tr v) := by
    unfold State.pinLevel; simp [Arena.find_put_same]
  unfold State.calling
  generalize hX : (s.setTrace t { tr with level := resolve s tr v }).setPin p
    { pin with level := adopt pin (resolve s tr v) } = X at hlev ⊢
  have hb : X.behaviour l = s.behaviour l := by rw [← hX]; rfl
  unfold State.invoker
  rw [hf, hl, invokeAll, invoke, hlev, hb]
  cases runBehaviour (invoke n) p (s.behaviour l) (X.emit (.invoked l p (adopt pin (resolve s tr v)))) <;> rfl

/-- The state of the call: what it shares with the state of the resolution, and the new levels. -/
theorem SoleObserver.calling {s : State} {t p : Nat} {tr : Trace} {pin : Pin} (h : SoleObserver s t p tr pin) (l : Nat)
    (v : Signal) : SameWiring s (s.calling t p l tr pin v) ∧ SameRest s (s.calling t p l tr pin v)
      ∧ (s.Wired → (s.calling t p l tr pin v).Wired) ∧ (s.calling t p l tr pin v).traceLevel t = resolve s tr v
      ∧ (s.calling t p l tr pin v).pinLevel p = adopt pin (resolve s tr v) := by
  obtain ⟨ht, -, hp, -, -⟩ := h
  have h1 : SameWiring s (s.setTrace t { tr with level := resolve s tr v }) := SameWiring.setTrace_level ht _
  have h2 : SameWiring (s.setTrace t { tr with level := resolve s tr v }) (s.calling t p l tr pin v) :=
    SameWiring.setPin_level (s := s.setTrace t { tr with level := resolve s tr v }) hp _
  refine ⟨h1.trans h2, ⟨rfl, rfl, rfl, rfl⟩, fun hw => (h1.trans h2).wired hw ?_ ?_, ?_, ?_⟩
  · exact Arena.put_sorted hw.1 _ _
  · exact Arena.put_sorted hw.2.1 _ _
  · show State.traceLevel (s.setTrace t { tr with level := resolve s tr v }) t = _
    unfold State.traceLevel; simp [Arena.find_put_same]
  · show State.pinLevel ((s.setTrace t { tr with level := resolve s tr v }).setPin p
      { pin with level := adopt pin (resolve s tr v) }) p = _
    unfold State.pinLevel; simp [Arena.find_put_same]

/-- What a board is ready for does not depend on levels. -/
theorem State.TickReady.transfer {s u : State} (h : s.TickReady) (hw : u.Wired) (hs : SameWiring s u) (he : u.env = s.env)
    (hv : u.vic = s.vic) : u.TickReady := ⟨h.ready.transfer hw hs he, hv ▸ h.coord, hv ▸ h.cIndex⟩

/-- A trace with a member whose listener does not only record is none of those that a ready block drives. -/
theorem State.Ready.off {s : State} {bs : List BlockPin} (h : s.Ready bs) {t p l : Nat} {tr : Trace}
    (ht : s.traces.find t = some tr) (hp : p ∈ tr.members) (hl : l ∈ s.pinListeners p) (hb : s.behaviour l ≠ none) :
    ∀ q ∈ bs.map s.blockHandle, s.traceOf q ≠ some t := by
  intro q hq e
  obtain ⟨b, hbm, rfl⟩ := List.mem_map.mp hq
  refine hb (h.records b hbm p ?_ l hl)
  unfold State.pushedWith
  rw [e]
  show p ∈ s.traceMembers t
  rw [State.traceMembers_eq ht]; exact hp

/-- Such a trace, and every pin on it, holds its level. -/
theorem HoldsBut.off {s u : State} {ps : List Nat} (h : HoldsBut s u ps) {t : Nat} (ht : ∀ q ∈ ps, s.traceOf q ≠ some t) :
    u.traceLevel t = s.traceLevel t ∧ ∀ p, s.traceOf p = some t → u.pinLevel p = s.pinLevel p :=
  ⟨h.1 t ht, fun p hp => h.2 p (fun hm => ht p hm hp) (.inr fun t' e q hq => by rw [hp] at e; cases e; exact ht q hq)⟩

end Sys2Proof.Machine
end

