-- ==== Sys2Proof/Laws/Memory.lean ====
section
/-! SUPPORT. The laws of the memory behind the bus: read after write, and that writing keeps the canonical form. -/
namespace Sys2Proof.Machine

theorem Memory.find_filter_same (m : Memory) (k : Nat) : Arena.find (m.filter (fun e => e.1 != k)) k = none := by
  induction m with
  | nil => rfl
  | cons d m ih =>
    obtain ⟨j, x⟩ := d
    rw [List.filter_cons]
    split
    · rename_i h
      have : j ≠ k := by simpa using h
      rw [Arena.find_cons, if_neg (Ne.symm this), ih]
    · exact ih

theorem Memory.find_filter_ne (m : Memory) {k k' : Nat} (h : k' ≠ k) :
    Arena.find (m.filter (fun e => e.1 != k)) k' = Arena.find m k' := by
  induction m with
  | nil => rfl
  | cons d m ih =>
    obtain ⟨j, x⟩ := d
    rw [List.filter_cons, Arena.find_cons]
    split
    · rw [Arena.find_cons, ih]
    · rename_i hj
      have : j = k := by simpa using hj
      rw [ih, if_neg (by omega)]

theorem Memory.read_write_same (m : Memory) (a : BitVec 14) (v : BitVec 12) : (m.write a v).read a = v := by
  unfold Memory.write Memory.read
  split
  · rw [Memory.find_filter_same]; subst_vars; rfl
  · rw [Arena.find_put_same]; rfl

theorem Memory.read_write_ne (m : Memory) {a b : BitVec 14} (h : b ≠ a) (v : BitVec 12) :
    (m.write a v).read b = m.read b := by
  have hn : b.toNat ≠ a.toNat := fun e => h (BitVec.eq_of_toNat_eq e)
  unfold Memory.write Memory.read
  split
  · rw [Memory.find_filter_ne m hn]
  · rw [Arena.find_put_ne m hn]

/-- A write keeps the canonical form. -/
theorem Memory.write_wf {m : Memory} (h : m.wf) (a : BitVec 14) (v : BitVec 12) : (m.write a v).wf := by
  unfold Memory.write
  split
  · exact ⟨h.1.sublist List.filter_sublist, fun e he => h.2 e (List.mem_of_mem_filter he)⟩
  · refine ⟨Arena.put_sorted h.1 _ _, fun e he => ?_⟩
    rcases Arena.mem_put he with rfl | he
    · exact ⟨a.isLt, by assumption⟩
    · exact h.2 e he

theorem Memory.nil_wf : Memory.wf [] := ⟨.nil, by simp⟩

/-- The memory of the reset state, if it has one, is canonical. -/
theorem State.reset_mem_wf : ∀ m, State.reset.env.mem = some m → m.wf := fun _ h => by cases h

end Sys2Proof.Machine
end

