-- ==== Sys2Proof/Laws/Synced.lean ====
section
/-! SUPPORT. That every operation leaves the pins synchronised with their traces (R14, R83), on every board: each operation keeps
all pins synchronised but those of any given set, so it may run inside a push that has pins left to update. -/
namespace Sys2Proof.Machine

/-- Every Input-capable member of a trace has adopted its level, but for the pins of `U`. -/
def SyncedBut (U : Nat → Prop) (s : State) : Prop :=
  ∀ t tr, s.traces.find t = some tr → ∀ p ∈ tr.members, ¬U p → s.pinSynced p tr.level = true

/-- What a computation keeps: the wiring, and the synchronisation of all pins outside any given set. -/
def Syncs (s u : State) : Prop := ∀ U, s.Wired → SyncedBut U s → u.Wired ∧ SyncedBut U u

/-- What a computation leaves that also synchronises the pins of `E`. -/
def SyncsAlso (E : Nat → Prop) (s u : State) : Prop :=
  ∀ U, s.Wired → SyncedBut (fun q => U q ∨ E q) s → u.Wired ∧ SyncedBut U u

theorem State.synced_iff {s : State} (hw : s.Wired) : s.Synced ↔ SyncedBut (fun _ => False) s :=
  ⟨fun h _ _ k p hp _ => h _ (Arena.mem_of_find k) p hp, fun h x hx p hp => h x.1 x.2 (Arena.find_of_mem hw.2.1 hx) p hp id⟩

theorem SyncedBut.mono {U V : Nat → Prop} {s : State} (h : SyncedBut U s) (k : ∀ q, U q → V q) : SyncedBut V s :=
  fun t tr ht p hp hv => h t tr ht p hp fun hu => hv (k p hu)

/-- A change of one pin keeps the others synchronised. -/
theorem SyncedBut.setPin {U : Nat → Prop} {s : State} (h : SyncedBut U s) (p : Nat) (pin : Pin) :
    SyncedBut (fun q => U q ∨ q = p) (s.setPin p pin) := fun t tr ht q hq hn => by
  have := h t tr ht q hq fun k => hn (.inl k)
  unfold State.pinSynced at this ⊢
  rw [State.setPin_pins, Arena.find_put_ne _ fun e => hn (.inr e)]
  exact this

/-- A change of one trace keeps the pins that are not its members synchronised. -/
theorem SyncedBut.setTrace {U : Nat → Prop} {s : State} (h : SyncedBut U s) (t : Nat) (tr : Trace) :
    SyncedBut (fun q => U q ∨ q ∈ tr.members) (s.setTrace t tr) := fun t' tr' ht q hq hn => by
  rw [State.setTrace_traces, Arena.find_put] at ht
  by_cases e : t' = t
  · rw [if_pos e] at ht; cases ht; exact absurd (.inr hq) hn
  · rw [if_neg e] at ht; exact h t' tr' ht q hq fun k => hn (.inl k)

/-- A pin that is synchronised, or on no trace, needs no exemption. -/
theorem SyncedBut.drop {U : Nat → Prop} {s : State} {p : Nat} (h : SyncedBut (fun q => U q ∨ q = p) s)
    (hp : ∀ t tr, s.traces.find t = some tr → p ∈ tr.members → s.pinSynced p tr.level = true) : SyncedBut U s :=
  fun t tr ht q hq hn => by
    by_cases e : q = p
    · subst e; exact hp t tr ht hq
    · exact h t tr ht q hq fun k => k.elim hn e

theorem Syncs.refl (s : State) : Syncs s s := fun _ hw h => ⟨hw, h⟩

theorem Syncs.trans : Composes Syncs := fun _ _ _ h1 h2 U hw h =>
  have a := h1 U hw h
  h2 U a.1 a.2

theorem SyncsAlso.next {E : Nat → Prop} {s t u : State} (h : SyncsAlso E s t) (h' : Syncs t u) : SyncsAlso E s u :=
  fun U hw hs => h' U (h U hw hs).1 (h U hw hs).2

/-- Answers after a change that breaks only the pins that the computation synchronises. -/
theorem Answers.syncs {E : Nat → Prop} {s t : State} {r : Result} (h : Answers (SyncsAlso E) t r) (hw : s.Wired → t.Wired)
    (hs : ∀ U, s.Wired → SyncedBut U s → SyncedBut (fun q => U q ∨ E q) t) : Answers Syncs s r := by
  cases r with
  | next u => exact fun U k1 k2 => h U (hw k1) (hs U k1 k2)
  | fault x => trivial
  | refused x => exact h

section
variable {inv : Invoker}

theorem invokeAll_syncs (hi : InvRespects Syncs inv) (p : Nat) : ∀ ls s, Answers Syncs s (invokeAll inv p ls s)
  | [], s => Syncs.refl s
  | l :: ls, s => Answers.andThen Syncs.trans (hi l p s) (fun t => invokeAll_syncs hi p ls t)

theorem updateLevel_syncs (hi : InvRespects Syncs inv) (p : Nat) (s : State) :
    Answers (SyncsAlso (· = p)) s (updateLevel inv p s) := by
  unfold updateLevel
  split
  · trivial
  · rename_i pin hp
    split
    · rename_i hm
      split
      · rename_i hn
        refine fun U hw h => ⟨hw, h.drop fun t tr ht hq => ?_⟩
        obtain ⟨pin', k1, k2⟩ := hw.member ht hq
        rw [hp] at k1; cases k1; rw [hn] at k2; cases k2
      · rename_i t ht
        split
        · trivial
        · rename_i tr htr
          have only : s.Wired → ∀ t' tr', s.traces.find t' = some tr' → p ∈ tr'.members → tr' = tr := fun hw t' tr' k hq => by
            obtain ⟨pin', k1, k2⟩ := hw.member k hq
            rw [hp] at k1; cases k1; rw [ht] at k2; cases k2
            rw [htr] at k; cases k; rfl
          split
          · rename_i he
            refine fun U hw h => ⟨hw, h.drop fun t' tr' k hq => ?_⟩
            rw [only hw t' tr' k hq]
            unfold State.pinSynced; rw [hp]; simp [he]
          · have key : SyncsAlso (· = p) s (s.setPin p { pin with level := adopt pin tr.level }) := fun U hw h => by
              refine ⟨hw.setPin hp rfl, SyncedBut.drop (p := p) ((h.setPin p _).mono fun q k => ?_) fun t' tr' k hq => ?_⟩
              · exact k.elim id .inr
              · rw [only hw t' tr' k hq]
                unfold State.pinSynced
                rw [State.setPin_pins, Arena.find_put_same]
                have : adopt { pin with level := adopt pin tr.level } tr.level = adopt pin tr.level := rfl
                simp [this]
            have := invokeAll_syncs hi p pin.listeners (s.setPin p { pin with level := adopt pin tr.level })
            revert this
            cases invokeAll inv p pin.listeners (s.setPin p { pin with level := adopt pin tr.level }) with
            | next u => exact fun k => key.next k
            | fault x => exact fun _ => trivial
            | refused x => exact id
    · rename_i hm
      refine fun U hw h => ⟨hw, h.drop fun t tr _ _ => ?_⟩
      unfold State.pinSynced; rw [hp]; simp [hm]

theorem updateAll_syncs (hi : InvRespects Syncs inv) : ∀ ps s, Answers (SyncsAlso (· ∈ ps)) s (updateAll inv ps s)
  | [], s => fun U hw h => ⟨hw, h.mono fun q k => by simpa using k⟩
  | p :: ps, s => by
    have h1 := updateLevel_syncs hi p s
    unfold updateAll
    revert h1
    cases updateLevel inv p s with
    | next t =>
      intro h1
      have h2 := updateAll_syncs hi ps t
      revert h2
      rw [andThen_next]
      cases updateAll inv ps t with
      | next u =>
        intro h2 U hw h
        have a := h1 (fun q => U q ∨ q ∈ ps) hw (h.mono fun q k => by simp only [List.mem_cons] at k; tauto)
        exact h2 U a.1 a.2
      | fault x => exact fun _ => trivial
      | refused x => exact id
    | fault x => exact fun _ => trivial
    | refused x => exact id

theorem resolveAndPush_syncs (hi : InvRespects Syncs inv) (t : Nat) (v : Signal) (s : State) :
    Answers (SyncsAlso fun q => s.pinOn q t = true) s (resolveAndPush inv t v s) := by
  unfold resolveAndPush
  split
  · trivial
  · rename_i tr ht
    have h := updateAll_syncs hi tr.members (s.setTrace t { tr with level := resolve s tr v })
    revert h
    cases updateAll inv tr.members (s.setTrace t { tr with level := resolve s tr v }) with
    | next u =>
      intro h U hw hs
      refine h U (hw.setTrace ht rfl) ((hs.setTrace t _).mono fun q k => ?_)
      rcases k with (k | k) | k
      · exact .inl k
      · obtain ⟨pin, k1, k2⟩ := State.pinOn_iff.mp k
        obtain ⟨tr', k3, k4⟩ := hw.traceOf k1 k2
        rw [ht] at k3; cases k3; exact .inr k4
      · exact .inr k
    | fault x => exact fun _ => trivial
    | refused x => exact id

/-- A pin on a trace changes, and its trace is resolved and pushed. -/
theorem changed_syncs (hi : InvRespects Syncs inv) {s : State} {p t : Nat} {pin : Pin} (pin' : Pin) (v : Signal)
    (hp : s.pins.find p = some pin) (ht : pin.trace = some t) (h : pin'.trace = pin.trace) :
    Answers Syncs s (resolveAndPush inv t v (s.setPin p pin')) := by
  refine (resolveAndPush_syncs hi t v (s.setPin p pin')).syncs (fun hw => hw.setPin hp h) fun U _ hs =>
    (hs.setPin p pin').mono fun q k => k.imp_right fun e => ?_
  subst e
  exact State.pinOn_iff.mpr ⟨pin', by simp, h.trans ht⟩

/-- A pin on no trace changes. -/
theorem alone_syncs {s : State} {p : Nat} {pin : Pin} (pin' : Pin) (hp : s.pins.find p = some pin) (ht : pin.trace = none)
    (h : pin'.trace = pin.trace) : Syncs s (s.setPin p pin') := fun U hw hs =>
  ⟨hw.setPin hp h, (hs.setPin p pin').drop fun t tr k hq => by
    obtain ⟨pin2, k1, k2⟩ := (hw.setPin hp h).member k hq
    rw [State.setPin_pins, Arena.find_put_same] at k1
    cases k1; rw [h, ht] at k2; cases k2⟩

/-- A pin changes and is then synchronised. -/
theorem updated_syncs (hi : InvRespects Syncs inv) {s : State} {p : Nat} {pin : Pin} (pin' : Pin)
    (hp : s.pins.find p = some pin) (h : pin'.trace = pin.trace) : Answers Syncs s (updateLevel inv p (s.setPin p pin')) :=
  (updateLevel_syncs hi p (s.setPin p pin')).syncs (fun hw => hw.setPin hp h) fun _ _ hs => hs.setPin p pin'

theorem joinTrace_syncs (hi : InvRespects Syncs inv) {t p : Nat} {tr : Trace} {pin : Pin} {s : State}
    (hp : s.pins.find p = some pin) (ht : s.traces.find t = some tr) (hm : p ∉ tr.members)
    (hpt : pin.trace = none ∨ pin.trace = some t) : Answers Syncs s (joinTrace inv t p tr pin s) := by
  have old : ∀ U, s.Wired → SyncedBut U s → SyncedBut (fun q => U q ∨ q = p)
      ((s.setTrace t { tr with members := tr.members ++ [p] }).setPin p { pin with trace := some t }) := fun U hw hs => by
    intro t' tr' k q hq hn
    have hqp : q ≠ p := fun e => hn (.inr e)
    have e : ((s.setTrace t { tr with members := tr.members ++ [p] }).setPin p { pin with trace := some t }).pinSynced q
        = s.pinSynced q := by
      funext v; unfold State.pinSynced; rw [State.setPin_pins, State.setTrace_pins, Arena.find_put_ne _ hqp]
    rw [e]
    rw [State.setPin_traces, State.setTrace_traces, Arena.find_put] at k
    by_cases h : t' = t
    · rw [if_pos h] at k; cases k
      refine hs t tr ht q ((List.mem_append.mp hq).resolve_right fun k => hqp (List.mem_singleton.mp k)) fun k => hn (.inl k)
    · rw [if_neg h] at k
      exact hs t' tr' k q hq fun k => hn (.inl k)
  unfold joinTrace
  split
  · refine (resolveAndPush_syncs hi t _ _).syncs (fun hw => (hw.join hp ht hm hpt).2) fun U hw hs =>
      (old U hw hs).mono fun q k => k.imp_right fun e => ?_
    subst e
    exact State.pinOn_iff.mpr ⟨_, Arena.find_put_same _ _ _, rfl⟩
  · exact (updateLevel_syncs hi p _).syncs (fun hw => (hw.join hp ht hm hpt).2) fun U hw hs => old U hw hs

theorem OpsAnswer.syncs (hi : InvRespects Syncs inv) : OpsAnswer Syncs inv where
  pinNew p m s := by
    unfold opPinNew
    split
    · trivial
    · rename_i h
      have h' : s.pins.has p = false := by simpa using h
      refine fun U hw hs => ⟨hw.newPin h' rfl, (hs.setPin p _).drop fun t tr k hq => ?_⟩
      obtain ⟨pin, k1, -⟩ := hw.member k hq
      unfold Arena.has at h'; rw [k1] at h'; cases h'
  setLevel p v s := by
    unfold pinSetLevel
    split
    · trivial
    · rename_i pin hp
      split
      · split
        · rename_i ht; exact alone_syncs _ hp ht rfl
        · rename_i t ht; exact changed_syncs hi _ _ hp ht rfl
      · exact Syncs.refl s
  setMode p m s := by
    unfold opPinSetMode
    split
    · trivial
    · rename_i pin hp
      split
      · exact Syncs.refl s
      · split
        · rename_i ht; exact alone_syncs _ hp ht rfl
        · rename_i t ht
          split
          · exact changed_syncs hi _ _ hp ht rfl
          · split
            · exact changed_syncs hi _ _ hp ht rfl
            · exact updated_syncs hi _ hp rfl
  pinPull p pull s := by
    unfold opPinPull
    split
    · trivial
    · rename_i pin hp
      split
      · rename_i ht; exact alone_syncs _ hp ht rfl
      · exact updated_syncs hi _ hp rfl
  addListener p l s := by
    unfold opPinAddListener
    split
    · trivial
    · rename_i pin hp
      refine fun U hw hs => ⟨hw.setPin hp rfl, fun t tr k q hq hn => ?_⟩
      have := hs t tr k q hq hn
      unfold State.pinSynced at this ⊢
      rw [State.setPin_pins, Arena.find_put]
      by_cases e : q = p
      · rw [if_pos e]; rw [e, hp] at this; exact this
      · rw [if_neg e]; exact this
  traceNew t s := by
    unfold opTraceNew
    split
    · trivial
    · rename_i h
      have h' : s.traces.has t = false := by simpa using h
      exact fun U hw hs => ⟨hw.newTrace h' rfl, (hs.setTrace t Trace.fresh).mono fun q k => k.elim id (by simp [Trace.fresh])⟩
  addPin t p s := by
    unfold opTraceAddPin
    split
    · trivial
    · rename_i tr ht
      split
      · trivial
      · rename_i pin hp
        split
        · exact Syncs.refl s
        · rename_i hm
          split
          · rename_i hn; exact joinTrace_syncs hi hp ht hm (.inl hn)
          · rename_i t' ht'
            split
            · rename_i e; exact joinTrace_syncs hi hp ht hm (.inr (e ▸ ht'))
            · trivial
  tracePull t pull s := by
    unfold opTracePull
    split
    · trivial
    · rename_i tr ht
      refine (resolveAndPush_syncs hi t _ _).syncs (fun hw => hw.setTrace ht rfl) fun U hw hs =>
        (hs.setTrace t _).mono fun q k => k.imp_right fun k => ?_
      exact (hw.2.2.1 _ (Arena.mem_of_find ht)).2 q k
  update p s := by
    refine (updateLevel_syncs hi p s).syncs id fun U _ hs => hs.mono fun q k => .inl k
  resolve t v s := by
    refine (resolveAndPush_syncs hi t v s).syncs id fun U _ hs => hs.mono fun q k => .inl k

/-- Every operation on every board keeps the pins outside any given set synchronised. -/
theorem syncs_closed : ClosedVic Syncs where
  refl := Syncs.refl
  trans := Syncs.trans
  emit _ _ := fun _ hw h => ⟨hw, h⟩
  ops hi := OpsAnswer.syncs hi
  vic _ _ _ := fun _ hw h => ⟨hw, h⟩
  free _ := fun _ hw h => ⟨hw, h⟩

end

end Sys2Proof.Machine
end

