-- ==== Sys2Proof/Tests/Slice0.lean ====
section
/-! SUPPORT. Tests of the model, each on one word or one step. Expected results are the spec's: the vectors E1 to E8 and V1 to V30 of
95_test_vectors, or a hand computation from the rule named. A theorem `witness_<Name>` shows that the hypotheses of
`Obligations.<Name>` are met, clause by clause, at the boundary values of their ranges. -/
namespace Sys2Proof.Tests
open Sys2Proof.Machine

/-! ## Helpers -/

/-- What a computation answers, looked at through `f`; none where it stops. -/
def after {α : Type} (r : Result) (f : State → α) : Option α :=
  match r with
  | .next t => some (f t)
  | .fault _ => none
  | .refused _ => none

/-- The fault that a computation stops with. -/
def faultOf (r : Result) : Option Fault :=
  match r with
  | .next _ => none
  | .fault f => some f
  | .refused _ => none

/-- The contract violation that a word is refused with. -/
def refusedWith (r : Except Violation Instr) : Option Violation :=
  match r with
  | .ok _ => none
  | .error v => some v

/-- A pin with no pull. -/
def pinOf (m : Mode) (lvl : Signal) (tr : Option Nat) (ls : List Nat) : Pin :=
  { Pin.fresh ⟨0, ""⟩ m with level := lvl, trace := tr, listeners := ls }

/-- The reset state with some pins and traces. -/
def boardOf (pins : List (Nat × Pin)) (traces : List (Nat × Trace)) : State :=
  { State.reset with pins := pins ++ State.reset.pins, traces := traces }

/-- p0 Output, p1 Input with listener 5, p2 Bidirectional, all at `0` on trace 0; p3 Output at `Z`, p4 Input, p5 Unconnected
at `1`, on no trace; trace 1 empty and at `Z`; p7 Output at `1` and p8 Input on trace 2; on trace 3 a clock pin p10 with the
block's STEP. -/
def board : State :=
  boardOf
    [(0, pinOf .output .low (some 0) []), (1, pinOf .input .low (some 0) [5]), (2, pinOf .bidirectional .low (some 0) []),
      (3, pinOf .output .floating none []), (4, pinOf .input .floating none []), (5, pinOf .unconnected .high none []),
      (7, pinOf .output .high (some 2) []), (8, pinOf .input .high (some 2) []),
      (10, pinOf .input .floating (some 3) [Env.stepListener])]
    [(0, ⟨[0, 1, 2], .none, .low⟩), (1, ⟨[], .none, .floating⟩), (2, ⟨[7, 8], .up, .high⟩), (3, ⟨[10], .none, .floating⟩)]

/-- The levels of p0, p1, p2 and of trace 0. -/
def levels (s : State) : Signal × Signal × Signal × Signal :=
  (s.pinLevel 0, s.pinLevel 1, s.pinLevel 2, s.traceLevel 0)

/-- The reset state with another VIC block. -/
def withVic (v : Vic) : State := { State.reset with vic := v }

/-- The same with a memory oracle (R52). -/
def withMem (m : Memory) (v : Vic) : State := { withVic v with env := { Env.reset with mem := some m } }

/-- At reset the block can set all its pins. -/
theorem ready_reset (bs : List BlockPin) : State.reset.Ready bs :=
  ⟨by decide, by decide, by decide,
    fun b _ => (by decide : ∀ b ∈ BlockPin.all, State.reset.Records (State.reset.pushedWith (State.reset.blockHandle b))) b b.mem_all⟩

theorem ready_withVic (v : Vic) (bs : List BlockPin) : (withVic v).Ready bs :=
  ⟨(ready_reset bs).wired, (ready_reset bs).terminals, (ready_reset bs).fuel, (ready_reset bs).records⟩

theorem ready_withMem (m : Memory) (v : Vic) (bs : List BlockPin) : (withMem m v).Ready bs :=
  ⟨(ready_reset bs).wired, (ready_reset bs).terminals, (ready_reset bs).fuel, (ready_reset bs).records⟩

theorem blockPinsOk_withVic (v : Vic) : (withVic v).BlockPinsOk := (by decide : State.reset.BlockPinsOk)

theorem tickReady_withVic (v : Vic) (h : v.CoordOk) (h' : v.CIndexOk) : (withVic v).TickReady := ⟨ready_withVic v _, h, h'⟩

theorem tickReady_withMem (m : Memory) (v : Vic) (h : v.CoordOk) (h' : v.CIndexOk) : (withMem m v).TickReady :=
  ⟨ready_withMem m v _, h, h'⟩

/-- The reset block at a coordinate. -/
def at_ (ph : Phase) (c : BitVec 7) (r : BitVec 9) : Vic := { Vic.reset with phase := ph, cycle := c, raster := r }

/-- The block after a step. -/
def tick (v : Vic) : Option Vic := after (exec .vicTick (withVic v)) State.vic

/-- What the tests look at in an access record. -/
structure Shown where
  acc  : AccessType
  addr : Option (BitVec 14)
  data : Option (BitVec 12)
deriving DecidableEq, Repr

/-- The newest access record. -/
def lastAccess (s : State) : Option Shown :=
  match s.out with
  | .access r :: _ => some ⟨r.acc, r.addr, r.data⟩
  | _ => none

/-! ## Encoding -/

/-- V8: one word per operation, written out from R65. -/
theorem test_decode_pin_words :
    decodeTableWord 32 0x01005003 = some (.pinNew 5 .bidirectional)
    ∧ decodeTableWord 32 0x02005002 = some (.pinSetLevel 5 .floating)
    ∧ decodeTableWord 32 0x03005001 = some (.pinSetMode 5 .input)
    ∧ decodeTableWord 32 0x04005000 = some (.pinPullUp 5) ∧ decodeTableWord 32 0x05005000 = some (.pinPullDown 5)
    ∧ decodeTableWord 32 0x06005000 = some (.pinNoPull 5) ∧ decodeTableWord 32 0x07005009 = some (.pinAddListener 5 9)
    ∧ decodeTableWord 32 0x08005000 = some (.pinGetLevel 5) ∧ decodeTableWord 32 0x09005000 = some (.pinGetMode 5)
    ∧ decodeTableWord 32 0x0A005000 = some (.pinSet 5) ∧ decodeTableWord 32 0x0B005000 = some (.pinClear 5)
    ∧ decodeTableWord 32 0x0C005000 = some (.pinFloat 5) ∧ decodeTableWord 32 0x0D005000 = some (.pinToggle 5) := by
  decide

/-- V8. -/
theorem test_decode_trace_words :
    decodeTableWord 32 0x10003000 = some (.traceNew 3) ∧ decodeTableWord 32 0x11003005 = some (.traceAddPin 3 5)
    ∧ decodeTableWord 32 0x12003001 = some (.traceSetLevel 3 .high) ∧ decodeTableWord 32 0x13003000 = some (.traceGetLevel 3)
    ∧ decodeTableWord 32 0x14003000 = some (.tracePullUp 3) ∧ decodeTableWord 32 0x15003000 = some (.tracePullDown 3)
    ∧ decodeTableWord 32 0x16003000 = some (.traceNoPull 3) ∧ decodeTableWord 32 0x1A003000 = some (.traceSet 3)
    ∧ decodeTableWord 32 0x1B003000 = some (.traceClear 3) ∧ decodeTableWord 32 0x1C003000 = some (.traceFloat 3)
    ∧ decodeTableWord 32 0x1D003000 = some (.traceToggle 3) := by decide

/-- V8, V30, and the two internal words of R65. -/
theorem test_decode_vic_and_internal_words :
    decodeTableWord 32 0x20000000 = some .vicTick ∧ decodeTableWord 32 0x21000003 = some (.vicSetField 0 3)
    ∧ decodeTableWord 32 0x21013005 = some (.vicSetField 0x13 5) ∧ decodeTableWord 32 0x22000008 = some (.vicWriteYExpand 8)
    ∧ decodeTableWord 32 0x23000133 = some (.vicWriteRasterCompare 0x133)
    ∧ decodeTableWord 32 0x23000333 = some (.vicWriteRasterCompare 0x133)
    ∧ decodeTableWord 32 0x24000000 = some .vicAckRasterIrq
    ∧ decodeTableWord 32 0xF0005000 = some (.updateLevel 5)
    ∧ decodeTableWord 32 0xF1003001 = some (.resolveAndPush 3 .high) := by decide

/-- V13: slot words at the ends of their ranges. -/
theorem test_decode_slot_words :
    decodeTableWord 8 0x01 = some .slotP1C01 ∧ decodeTableWord 8 0x0A = some .slotP1C10
    ∧ decodeTableWord 8 0x37 = some .slotP1C55 ∧ decodeTableWord 8 0x41 = some .slotP1C65
    ∧ decodeTableWord 8 0x81 = some .slotP2C01 ∧ decodeTableWord 8 0x8F = some .slotP2C15
    ∧ decodeTableWord 8 0xBC = some .slotP2C60 ∧ decodeTableWord 8 0xC1 = some .slotP2C65 := by decide

/-- V13: access-type words; R69: the selectors. -/
theorem test_decode_acc_and_gmode_words :
    decodeTableWord 6 0x00 = some .accIdle ∧ decodeTableWord 6 0x08 = some .accRefresh
    ∧ decodeTableWord 6 0x10 = some .accVideoMatrixColor ∧ decodeTableWord 6 0x18 = some .accBitmapChar
    ∧ decodeTableWord 6 0x23 = some (.accSpritePointer 3) ∧ decodeTableWord 6 0x2F = some (.accSpriteData 7)
    ∧ decodeTableWord 6 0x30 = some .accCpuOwned
    ∧ decodeTableWord 3 0 = some .gmode0 ∧ decodeTableWord 3 1 = some .gmode1 ∧ decodeTableWord 3 2 = some .gmode2
    ∧ decodeTableWord 3 3 = some .gmode3 ∧ decodeTableWord 3 4 = some .gmode4 ∧ decodeTableWord 3 5 = some .gmode5
    ∧ decodeTableWord 3 6 = some .gmode6 ∧ decodeTableWord 3 7 = some .gmode7 := by decide

/-- V13, V29: the illegal words, with the code of R221. -/
theorem test_illegal_words :
    [0x02000003, 0x12000003, 0x00000000, 0x0E000000, 0x17000000, 0x25000000, 0xFF000000, 0xF0000000, 0xF1000002,
        0x02007003].map (fun w => (refusedWith (decodeCmd w)).map Violation.code)
      = [some 1, some 1, some 3, some 3, some 3, some 3, some 3, some 4, some 4, some 1]
    ∧ [0x00, 0x80, 0x42, 0xC2, 0x7F].map (fun w => refusedWith (decodeSlot w))
      = [some (.badSlot 0x00), some (.badSlot 0x80), some (.badSlot 0x42), some (.badSlot 0xC2), some (.badSlot 0x7F)]
    ∧ [0x38, 0x3F, 0x01, 0x33].map (fun w => refusedWith (decodeAcc w))
      = [some (.badAccessType 0x38), some (.badAccessType 0x3F), some (.badAccessType 0x01), some (.badAccessType 0x33)] := by
  decide

/-- The smoke test of WellFormed: a field id that names no field is the one ill-formed term. -/
theorem test_wellFormed_refuses_unknown_fields :
    [8, 9, 0x0F, 0x10, 0x17, 0x18].map (fun f => WellFormed (.vicSetField f 1)) = [true, false, false, true, true, false]
    ∧ Instr.atInterface (.updateLevel 0) = false ∧ Instr.atInterface .slotP1C01 = false
    ∧ Instr.atInterface (.pinSet 0) = true := by decide

/-- A word of each format decodes; the unused bits of PIN_SET are ignored (R64). -/
theorem witness_EachWordHasOneMeaning :
    (decodeSlot 0x01).toOption = some .slotP1C01 ∧ (decodeSlot 0xC1).toOption = some .slotP2C65
    ∧ (decodeAcc 0x27).toOption = some (.accSpritePointer 7)
    ∧ (decodeCmd 0x0A005FFF).toOption = some (.pinSet 5) ∧ (decodeCmd 0x0A005000).toOption = some (.pinSet 5)
    ∧ (decodeInternal 0xF0005FFF).toOption = some (.updateLevel 5)
    ∧ (decodeInternal 0xF1003FFE).toOption = some (.resolveAndPush 3 .floating) := by decide

theorem witness_IllegalWordsAreContractViolations :
    (opOf 0x0E000000).toNat ∉ [1, 2, 3, 4, 5, 6, 7, 8, 9, 10, 11, 12, 13, 16, 17, 18, 19, 20, 21, 22, 26, 27, 28, 29, 32,
        33, 34, 35, 36, 0xF0, 0xF1]
    ∧ ((opOf 0xF0FFFFFF).toNat = 0xF0 ∧ (opOf 0xF1000003).toNat = 0xF1)
    ∧ ((opOf 0x02005003).toNat = 2 ∧ (0x02005003 : CmdWord).toNat % 4 = 3
      ∧ (opOf 0x12FFFFFF).toNat = 18 ∧ (0x12FFFFFF : CmdWord).toNat % 4 = 3)
    ∧ ((0x80 : SlotWord).toNat % 128 = 0 ∧ 65 < (0x42 : SlotWord).toNat % 128 ∧ 65 < (0xFF : SlotWord).toNat % 128)
    ∧ (0x38 : AccWord).toNat / 8 = 7
    ∧ ((0x37 : AccWord).toNat / 8 ≠ 4 ∧ (0x37 : AccWord).toNat / 8 ≠ 5 ∧ (0x37 : AccWord).toNat % 8 ≠ 0)
    ∧ ((opOf 0xF1003003).toNat = 0xF1 ∧ (0xF1003003 : CmdWord).toNat % 4 = 3)
    ∧ ((opOf 0x20000000).toNat ≠ 0xF0 ∧ (opOf 0x20000000).toNat ≠ 0xF1 ∧ (opOf 0xF2000000).toNat ≠ 0xF1) := by decide

/-- R221 code 1 for a pending value `11` at the internal port; at the interface the same word is code 4 (log 13). -/
theorem test_reserved_pending_value :
    refusedWith (decodeInternal 0xF1003003) = some (.reservedSignal 0xF1003003)
    ∧ refusedWith (decodeCmd 0xF1003003) = some (.internalOpcode 0xF1003003) := by decide

theorem witness_StepRunsTheDecodedInstruction :
    ({ State.reset with pending := [.cmd 0x01005002] } : State).pending = .cmd 0x01005002 :: []
    ∧ (decode (.cmd 0x01005002)).toOption = some (.pinNew 5 .output)
    ∧ State.reset.pending = [] ∧ decodeTableWord 8 0x02 = some .slotP1C02 := by decide

/-- A word placed by `withFetchWord` runs at once, and the queue is as before. -/
theorem test_step_runs_the_placed_word :
    after (step (State.reset.withFetchWord 32 0x01005002)) (fun t => (t.pinMode 5, t.pending)) = some (.output, []) := by decide

/-! ## Pins -/

/-- The board of these tests is connected and synchronised; its clock pin steps the block, and the other traces record. -/
theorem witness_board :
    board.Wired ∧ board.Synced ∧ board.Resolved ∧ board.HasTerminals
    ∧ board.TraceRecords 0 ∧ board.TraceRecords 1 ∧ board.TraceRecords 2 ∧ ¬board.TraceRecords 3 := by decide

theorem witness_PinNewCreatesAPin :
    board.pins.has (0 : Handle).toNat = true ∧ board.pins.has (4095 : Handle).toNat = false
    ∧ Arena.find board.env.wiring.idents (17 : Handle).toNat = some ⟨5, "A1"⟩ ∧ board.pins.has (17 : Handle).toNat = false := by
  decide

/-- R84, V29. -/
theorem test_pin_new :
    after (exec (.pinNew 6 .bidirectional) board) (fun t => t.pins.find 6)
      = some (some (pinOf .bidirectional .floating none [] |> fun p => { p with number := 6 }))
    ∧ faultOf (exec (.pinNew 0 .input) board) = some (.contractViolation (.noSuchPin 0)) := by decide

/-- The four ways PIN_SET_LEVEL goes (R85), and the toggles. -/
theorem witness_PinSetsAndTogglesDriveTheTrace :
    board.pins.find 0 = some (pinOf .output .low (some 0) []) ∧ board.pins.find 2 = some (pinOf .bidirectional .low (some 0) [])
    ∧ board.traces.find 0 = some ⟨[0, 1, 2], .none, .low⟩
    ∧ board.pins.find 3 = some (pinOf .output .floating none []) ∧ board.pins.find 4 = some (pinOf .input .floating none [])
    ∧ board.pins.find 5 = some (pinOf .unconnected .high none []) ∧ board.pins.find 7 = some (pinOf .output .high (some 2) [])
    ∧ board.Wired ∧ board.TraceRecords 0 ∧ board.TraceRecords 2 := by decide

/-- E8, V1: a driven level reaches the trace and the input, whose listener is called once. -/
theorem test_pin_set_level :
    after (exec (.pinSetLevel 0 .high) board) (fun t => (levels t, t.out))
      = some ((.high, .high, .high, .high), [.invoked 5 1 .high])
    ∧ after (exec (.pinSetLevel 4 .high) board) (fun t => t.pinLevel 4) = some .floating := by decide

/-- V2: `level p0 0` under an Output at `1`: the Bidirectional pin's pending `1` loses to the driver's `0` here. -/
theorem test_pin_set_level_bidirectional :
    after (exec (.pinSetLevel 2 .high) board) (fun t => (levels t, t.out)) = some ((.low, .low, .low, .low), []) := by decide

theorem test_pin_set_clear_float :
    after (exec (.pinSet 0) board) levels = some (.high, .high, .high, .high)
    ∧ after (exec (.pinClear 7) board) (fun t => (t.pinLevel 7, t.pinLevel 8, t.traceLevel 2)) = some (.low, .low, .low)
    ∧ after (exec (.pinFloat 0) board) levels = some (.floating, .floating, .floating, .floating) := by decide

/-- V6. -/
theorem test_pin_toggle :
    after (exec (.pinToggle 0) board) levels = some (.high, .high, .high, .high)
    ∧ after (exec (.pinToggle 3) board) (fun t => t.pinLevel 3) = some .floating
    ∧ after (exec (.pinToggle 5) board) (fun t => t.pinLevel 5) = some .high := by decide

theorem witness_PinSetModeTakesOneOfFourBranches :
    (Mode.output = (pinOf .output .low (some 0) []).mode ∧ Mode.input ≠ (pinOf .output .low (some 0) []).mode)
    ∧ (board.pins.find 3 = some (pinOf .output .floating none []))
    ∧ (board.pins.find 1 = some (pinOf .input .low (some 0) [5]) ∧ Mode.bidirectional.outCap = true)
    ∧ (Mode.input.outCap = false ∧ (pinOf .output .low (some 0) []).mode.outCap = true
      ∧ (pinOf .output .low (some 0) []).level ≠ .floating)
    ∧ (Mode.unconnected.outCap = false ∧ (pinOf .input .low (some 0) [5]).mode.outCap = false)
    ∧ board.Wired ∧ board.TraceRecords 0 := by decide

/-- V3: the vanished driver lets the trace float, and the pin, now an input, follows. -/
theorem test_pin_set_mode :
    after (exec (.pinSetMode 0 .input) board) (fun t => (levels t, t.pinMode 0))
      = some ((.floating, .floating, .floating, .floating), .input)
    ∧ after (exec (.pinSetMode 3 .input) board) (fun t => t.pinMode 3) = some .input := by decide

theorem witness_PinPullsStoreAndSynchronise :
    Instr.pinPulls (.pinPullUp 1) = some (1, .up) ∧ Instr.pinPulls (.pinPullDown 4) = some (4, .down)
    ∧ Instr.pinPulls (.pinNoPull 1) = some (1, .none) ∧ (board.pins.find 4).map Pin.trace = some none
    ∧ (board.pins.find 1).map Pin.trace = some (some 0) ∧ board.Wired
    ∧ board.PinRecords (1 : Handle).toNat := by decide

/-- V4: a pin's own pull stands in for `Z`, for that pin alone. -/
theorem test_pin_pulls :
    let s := boardOf [(0, pinOf .output .floating (some 0) []), (1, pinOf .input .floating (some 0) [1]),
      (2, pinOf .input .floating (some 0) [])] [(0, ⟨[0, 1, 2], .none, .floating⟩)]
    after (exec (.pinPullUp 1) s) (fun t => (levels t, t.out))
      = some ((.floating, .high, .floating, .floating), [.invoked 1 1 .high])
    ∧ after (exec (.pinPullDown 1) s) levels = some (.floating, .low, .floating, .floating)
    ∧ after (exec (.pinNoPull 1) s) levels = some (.floating, .floating, .floating, .floating) := by decide

theorem witness_PinAddListenerAppends : board.pins.find (1 : Handle).toNat = some (pinOf .input .low (some 0) [5]) := by decide

theorem test_pin_add_listener :
    after (exec (.pinAddListener 1 9) board) (fun t => (t.pins.find 1).map Pin.listeners) = some (some [5, 9]) := by decide

theorem witness_GetsArePure :
    board.pins.find (7 : Handle).toNat = some (pinOf .output .high (some 2) [])
    ∧ board.traces.find (2 : Handle).toNat = some ⟨[7, 8], .up, .high⟩ := by decide

/-- E3, V3: what the reads return. -/
theorem test_gets :
    after (exec (.pinGetLevel 7) board) State.out = some [.pinLevel 7 .high]
    ∧ after (exec (.pinGetMode 2) board) State.out = some [.pinMode 2 .bidirectional]
    ∧ after (exec (.traceGetLevel 1) board) State.out = some [.traceLevel 1 .floating] := by decide

/-! ## Traces -/

theorem witness_TraceNewCreatesATrace :
    board.traces.has (1 : Handle).toNat = true ∧ board.traces.has (4095 : Handle).toNat = false := by decide

theorem test_trace_new :
    after (exec (.traceNew 4095) board) (fun t => t.traces.find 4095) = some (some ⟨[], .none, .floating⟩)
    ∧ faultOf (exec (.traceNew 1) board) = some (.contractViolation (.noSuchTrace 1)) := by decide

theorem witness_TraceAddPinJoins :
    board.traces.find (0 : Handle).toNat = some ⟨[0, 1, 2], .none, .low⟩ ∧ board.traces.find (1 : Handle).toNat = some ⟨[], .none, .floating⟩
    ∧ board.pins.find (1 : Handle).toNat = some (pinOf .input .low (some 0) [5]) ∧ (1 : Handle).toNat ∈ [0, 1, 2]
    ∧ ((1 : Handle).toNat ∉ ([] : List Nat) ∧ (pinOf .input .low (some 0) [5]).trace = some 0 ∧ 0 ≠ (1 : Handle).toNat)
    ∧ (board.pins.find (3 : Handle).toNat = some (pinOf .output .floating none []) ∧ Mode.output.outCap = true)
    ∧ (board.pins.find (4 : Handle).toNat = some (pinOf .input .floating none []) ∧ Mode.input.outCap = false)
    ∧ board.Wired ∧ board.PinRecords (3 : Handle).toNat ∧ board.PinRecords (4 : Handle).toNat
    ∧ board.TraceRecords (1 : Handle).toNat := by decide

/-- V5, V29. -/
theorem test_trace_add_pin :
    after (exec (.traceAddPin 2 4) board) (fun t => (t.pinLevel 4, (t.traces.find 2).map Trace.members))
      = some (.high, some [7, 8, 4])
    ∧ after (exec (.traceAddPin 2 3) board) (fun t => (t.pinLevel 3, t.traceLevel 2)) = some (.floating, .high)
    ∧ after (exec (.traceAddPin 0 1) board) (fun t => (t.traces.find 0).map Trace.members) = some (some [0, 1, 2])
    ∧ faultOf (exec (.traceAddPin 1 1) board) = some (.contractViolation (.pinAlreadyOnTrace 1)) := by decide

theorem witness_TraceSetsAndTogglesResolveAndPush :
    board.traces.find (1 : Handle).toNat = some ⟨[], .none, .floating⟩ ∧ board.traces.find (0 : Handle).toNat = some ⟨[0, 1, 2], .none, .low⟩
    ∧ board.traces.find (2 : Handle).toNat = some ⟨[7, 8], .up, .high⟩
    ∧ Instr.traceSets (.resolveAndPush 0 .floating) = some (0, .floating) ∧ Instr.traceSets (.traceSet 1) = some (1, .high)
    ∧ board.Wired ∧ board.TraceRecords (0 : Handle).toNat ∧ board.TraceRecords (2 : Handle).toNat := by decide

/-- V1: a set beats nothing that is driven, and stands on a trace that nothing drives. -/
theorem test_trace_sets :
    after (exec (.traceSetLevel 1 .low) board) (fun t => t.traceLevel 1) = some .low
    ∧ after (exec (.traceSet 0) board) levels = some (.low, .low, .low, .low)
    ∧ after (exec (.traceClear 2) board) (fun t => t.traceLevel 2) = some .high
    ∧ after (exec (.traceFloat 0) board) levels = some (.low, .low, .low, .low) := by decide

/-- V1, V5: `float` with nothing driving lets a Bidirectional pin go. -/
theorem test_trace_toggle_and_resolve :
    let s := boardOf [(0, pinOf .bidirectional .low (some 0) [])] [(0, ⟨[0], .none, .low⟩)]
    after (exec (.traceToggle 0) s) (fun t => (t.pinLevel 0, t.traceLevel 0)) = some (.high, .high)
    ∧ after (exec (.traceToggle 1) board) (fun t => t.traceLevel 1) = some .floating
    ∧ after (exec (.resolveAndPush 0 .floating) s) (fun t => (t.pinLevel 0, t.traceLevel 0)) = some (.floating, .floating) := by
  decide

theorem witness_TracePullsResolve :
    Instr.tracePulls (.tracePullUp 1) = some (1, .up) ∧ Instr.tracePulls (.tracePullDown 1) = some (1, .down)
    ∧ Instr.tracePulls (.traceNoPull 2) = some (2, .none) ∧ board.traces.has (1 : Handle).toNat = true
    ∧ board.traces.has (2 : Handle).toNat = true ∧ board.Wired ∧ board.TraceRecords (1 : Handle).toNat
    ∧ board.TraceRecords (2 : Handle).toNat := by decide

/-- E2, E3: a pull never overrides a driver, and decides where there is none. -/
theorem test_trace_pulls :
    after (exec (.tracePullUp 0) board) (fun t => t.traceLevel 0) = some .low
    ∧ after (exec (.tracePullDown 1) board) (fun t => t.traceLevel 1) = some .low
    ∧ after (exec (.tracePullUp 1) board) (fun t => t.traceLevel 1) = some .high
    ∧ after (exec (.traceNoPull 2) board) (fun t => (t.traces.find 2).map Trace.pull) = some (some .none) := by decide

/-- A pin that has not yet taken its trace's level. -/
def stale : State :=
  boardOf [(0, pinOf .output .high (some 0) []), (1, pinOf .input .low (some 0) [5])] [(0, ⟨[0, 1], .none, .high⟩)]

theorem witness_UpdateLevelSynchronisesOnePin :
    stale.pins.find (0 : Handle).toNat = some (pinOf .output .high (some 0) []) ∧ Mode.output.inCap = false
    ∧ stale.pins.find (1 : Handle).toNat = some (pinOf .input .low (some 0) [5]) ∧ Mode.input.inCap = true
    ∧ (board.pins.find (4 : Handle).toNat).map Pin.trace = some none
    ∧ stale.traces.has 0 = true ∧ stale.Wired ∧ stale.PinRecords (1 : Handle).toNat := by decide

theorem test_update_level :
    after (exec (.updateLevel 1) stale) (fun t => (t.pinLevel 1, t.out)) = some (.high, [.invoked 5 1 .high])
    ∧ after (exec (.updateLevel 0) stale) (fun t => (t.pinLevel 0, t.out)) = some (.high, []) := by decide

theorem witness_UnknownHandlesAreContractViolations :
    Instr.needsPin (.pinPullDown 9) = some 9 ∧ board.pins.has (9 : Handle).toNat = false
    ∧ Instr.needsTrace (.traceGetLevel 5) = some 5 ∧ board.traces.has (5 : Handle).toNat = false
    ∧ board.traces.has (0 : Handle).toNat = true := by decide

/-- V29: codes 5 and 6 with their info. -/
theorem test_unknown_handles :
    faultOf (exec (.pinSetLevel 9 .high) board) = some (.contractViolation (.noSuchPin 9))
    ∧ faultOf (exec (.traceAddPin 0 9) board) = some (.contractViolation (.noSuchPin 9))
    ∧ faultOf (exec (.traceGetLevel 5) board) = some (.contractViolation (.noSuchTrace 5)) := by decide

/-! ## Resolution -/

theorem activelyDrives_iff (s : State) (p : Nat) (v : Signal) : ActivelyDrives s p v ↔ drives s v p = true := by
  unfold drives ActivelyDrives
  cases s.pins.find p <;> simp

/-- Two drivers that disagree, one that drives `0`, and none: the three cases of the rule. -/
theorem witness_ResolutionRule :
    let s := boardOf [(0, pinOf .output .high (some 0) []), (1, pinOf .output .low (some 0) [])] [(0, ⟨[1, 0], .up, .high⟩)]
    (∃ p ∈ [1, 0], ActivelyDrives s p .high)
    ∧ ((¬∃ p ∈ [1], ActivelyDrives s p .high) ∧ ∃ p ∈ [1], ActivelyDrives s p .low)
    ∧ ((¬∃ p ∈ ([] : List Nat), ActivelyDrives s p .high) ∧ ¬∃ p ∈ ([] : List Nat), ActivelyDrives s p .low)
    ∧ ([0, 1] : List Nat).Perm [1, 0] := by
  simp only [activelyDrives_iff]
  decide

/-- E2: `1` wins in both membership orders. -/
theorem test_high_wins_in_both_orders :
    let s := boardOf [(0, pinOf .output .high (some 0) []), (1, pinOf .output .low (some 0) [])] []
    resolve s ⟨[0, 1], .down, .low⟩ .low = .high ∧ resolve s ⟨[1, 0], .down, .low⟩ .low = .high
    ∧ resolve s ⟨[1], .up, .high⟩ .high = .low ∧ resolve s ⟨[], .up, .low⟩ .floating = .high
    ∧ resolve s ⟨[], .down, .low⟩ .high = .high ∧ resolve s ⟨[], .none, .high⟩ .floating = .floating := by decide

theorem witness_WriteIsReadBackThroughTheTrace :
    board.Wired ∧ board.TraceRecords 2 ∧ board.traces.find 2 = some ⟨[7, 8], .up, .high⟩
    ∧ board.pins.find (7 : Handle).toNat = some (pinOf .output .high (some 2) [])
    ∧ board.pins.find (8 : Handle).toNat = some (pinOf .input .high (some 2) [])
    ∧ (∀ r ∈ [7, 8], r ≠ (7 : Handle).toNat → ∀ w, w ≠ .floating → ActivelyDrives board r w → w = .low)
    ∧ (Signal.low = .floating → Pull.up = .none ∧ (pinOf .input .high (some 2) []).pull = .none) := by
  refine ⟨by decide, by decide, by decide, by decide, by decide, ?_, by decide⟩
  intro r hr hne w _ hd
  rw [activelyDrives_iff] at hd
  fin_cases hr
  · exact absurd rfl hne
  · cases w <;> revert hd <;> decide

/-! ## Listeners -/

/-- p0 on trace 0 is the Input that a listener hangs on; `b` is that listener's behaviour. -/
def listening (fuel : Nat) (b : Behaviour) : State :=
  { boardOf [(0, pinOf .input .floating (some 0) [7])] [(0, ⟨[0], .none, .floating⟩)] with
    env := { Env.reset with fuel := fuel, listeners := [(7, b)] } }

theorem resolves_listening (fuel : Nat) (b : Behaviour) (v : Signal) :
    (listening fuel b).Resolves (.traceSetLevel 0 v) 0 v (listening fuel b) :=
  .inl ⟨0, _, rfl, rfl, .inl rfl, rfl⟩

theorem soleObserver_listening (fuel : Nat) (b : Behaviour) :
    SoleObserver (listening fuel b) 0 0 ⟨[0], .none, .floating⟩ (pinOf .input .floating (some 0) [7]) :=
  ⟨rfl, ⟨[], rfl, by simp⟩, rfl, rfl, rfl⟩

theorem witness_PhiChangeRunsOneStep :
    (listening 1 .vicStep).Resolves (.traceSetLevel 0 .high) 0 .high (listening 1 .vicStep)
    ∧ (listening 1 .vicStep).Resolves (.traceSetLevel 0 .floating) 0 .floating (listening 1 .vicStep)
    ∧ OneListener (listening 1 .vicStep) 0 0 7 0 ⟨[0], .none, .floating⟩ (pinOf .input .floating (some 0) [7])
    ∧ (listening 1 .vicStep).behaviour 7 = some .vicStep
    ∧ adopt (pinOf .input .floating (some 0) [7]) (resolve (listening 1 .vicStep) ⟨[0], .none, .floating⟩ .high)
        ≠ (pinOf .input .floating (some 0) [7]).level
    ∧ adopt (pinOf .input .floating (some 0) [7]) (resolve (listening 1 .vicStep) ⟨[0], .none, .floating⟩ .floating)
        = (pinOf .input .floating (some 0) [7]).level :=
  ⟨resolves_listening _ _ _, resolves_listening _ _ _, ⟨rfl, soleObserver_listening _ _, rfl⟩, rfl, by decide, by decide⟩

/-- P5: an edge runs one step, a repeated level runs none. -/
theorem test_phi_edge_is_a_step :
    after (exec (.traceSet 0) (listening 1 .vicStep)) (fun t => (t.vic.raster, t.vic.cycle, t.vic.phase)) = some (0, 1, .one)
    ∧ after (exec (.traceFloat 0) (listening 1 .vicStep)) (fun t => t.vic.raster) = some 262 := by decide

theorem witness_ListenerOperationsRunInsideThePush :
    let s := listening 2 (.prog (.cmd 0x01006002 .done))
    s.Resolves (.traceSetLevel 0 .high) 0 .high s
    ∧ OneListener s 0 0 7 1 ⟨[0], .none, .floating⟩ (pinOf .input .floating (some 0) [7])
    ∧ s.behaviour 7 = some (.prog (.cmd 0x01006002 .done))
    ∧ adopt (pinOf .input .floating (some 0) [7]) (resolve s ⟨[0], .none, .floating⟩ .high) ≠ .floating
    ∧ (decodeCmd 0x01006002).toOption = some (.pinNew 6 .output)
    ∧ refusedWith (decodeCmd 0x02000003) = some (.reservedSignal 0x02000003)
    ∧ Instr.atInterface (.pinNew 6 .output) = true ∧ Instr.atInterface .vicTick = true :=
  ⟨resolves_listening _ _ _, ⟨rfl, soleObserver_listening _ _, rfl⟩, rfl, by decide, by decide, by decide, rfl, rfl⟩

/-- R108: the operation has run when the stimulus ends; an illegal one ends it. -/
theorem test_listener_operation :
    after (exec (.traceSet 0) (listening 1 (.prog (.cmd 0x01006002 .done)))) (fun t => t.pinMode 6) = some .output
    ∧ faultOf (exec (.traceSet 0) (listening 1 (.prog (.cmd 0x02000003 .done))))
      = some (.contractViolation (.reservedSignal 0x02000003)) := by decide

theorem witness_FuelExhaustionIsAHang :
    let s := listening 0 (.prog .done)
    s.Resolves (.traceSetLevel 0 .high) 0 .high s ∧ s.env.fuel = 0
    ∧ SoleObserver s 0 0 ⟨[0], .none, .floating⟩ (pinOf .input .floating (some 0) [7])
    ∧ (pinOf .input .floating (some 0) [7]).listeners ≠ []
    ∧ adopt (pinOf .input .floating (some 0) [7]) (resolve s ⟨[0], .none, .floating⟩ .high) ≠ .floating :=
  ⟨resolves_listening _ _ _, rfl, soleObserver_listening _ _, by decide, by decide⟩

theorem test_fuel_exhaustion : faultOf (exec (.traceSet 0) (listening 0 (.prog .done))) = some .hang := by decide

/-! ## The clock model: every statement about VIC_TICK has the one hypothesis `TickReady`, met at both ends of each range -/

theorem witness_TickReady :
    State.reset.TickReady ∧ (withVic (at_ .one 1 0)).TickReady ∧ (withVic (at_ .two 65 0)).TickReady
    ∧ (withVic { at_ .two 14 0x33 with vmli := 0 }).TickReady ∧ (withVic { at_ .one 54 0x33 with vmli := 39 }).TickReady
    ∧ State.reset.BlockPinsOk :=
  ⟨tickReady_withVic Vic.reset (by decide) (by decide), tickReady_withVic _ (by decide) (by decide),
    tickReady_withVic _ (by decide) (by decide), tickReady_withVic _ (by decide) (by decide),
    tickReady_withVic _ (by decide) (by decide), by decide⟩

/-- V9, R122: the three ways the coordinate advances, and the frame's end. -/
theorem witness_TickAdvancesTheCoordinate :
    (tick (at_ .one 65 7)).map (fun t => (t.phase, t.cycle, t.raster)) = some (.two, 65, 7)
    ∧ (tick (at_ .two 64 7)).map (fun t => (t.phase, t.cycle, t.raster)) = some (.one, 65, 7)
    ∧ (tick (at_ .two 65 261)).map (fun t => (t.phase, t.cycle, t.raster)) = some (.one, 1, 262)
    ∧ (tick (at_ .two 65 262)).map (fun t => (t.phase, t.cycle, t.raster)) = some (.one, 1, 0) := by decide

/-- V10, V11: published at the raster change; compared there and nowhere else. -/
theorem witness_RasterChangePublishesAndCompares :
    let v := { at_ .two 65 0x104 with rasterLatch := 0x105, regs := { Regs.reset with irqEnableRaster := true } }
    v.EndsLine ∧ ¬(at_ .one 65 0x104).EndsLine ∧ ¬(at_ .two 64 0x104).EndsLine
    ∧ (tick v).map (fun t => (t.rasterLow, t.rasterHigh, t.irqRequestRaster)) = some (5, true, true)
    ∧ after (exec .vicTick (withVic v)) (fun t => t.blockLevel .irq) = some .low
    ∧ (tick { v with rasterLatch := 0x104 }).map (fun t => t.irqRequestRaster) = some false
    ∧ (tick { v with phase := .one, raster := 0x105 }).map (fun t => t.irqRequestRaster) = some false := by decide

/-- V12. -/
theorem witness_DisplayEnableIsSampledOncePerFrame :
    let on := { Regs.reset with denBit := true }
    (tick { at_ .two 65 0x2F with regs := on }).map (fun t => (t.raster.toNat, t.den)) = some (0x30, true)
    ∧ (tick { at_ .two 65 0x30 with regs := on }).map (fun t => t.den) = some false
    ∧ (tick { at_ .one 65 0x30 with regs := on }).map (fun t => t.den) = some false
    ∧ (tick { at_ .two 65 0x2F with den := true }).map (fun t => t.den) = some false := by decide

/-- E4: the ends of the range. -/
theorem witness_BadLinePredicate :
    let at_line (r : BitVec 9) (y : BitVec 3) : Vic := { at_ .one 3 r with den := true, regs := { Regs.reset with yscroll := y } }
    (tick (at_line 0x2F 7)).map Vic.badLine = some false ∧ (tick (at_line 0x30 0)).map Vic.badLine = some true
    ∧ (tick (at_line 0xF7 7)).map Vic.badLine = some true ∧ (tick (at_line 0xF8 0)).map Vic.badLine = some false
    ∧ (tick { at_line 0x30 0 with den := false }).map Vic.badLine = some false := by decide

/-! ## The background counters -/

/-- R191: with and without a bad line. -/
theorem witness_LineReloadAtCycle14 :
    let v := { at_ .two 13 0x30 with den := true, vcbase := 40, vc := 3, vmli := 7, rc := 5, idle := false }
    (tick v).map (fun t => (t.phase, t.cycle, t.vc, t.vmli, t.rc)) = some (.one, 14, 40, 0, 0)
    ∧ (tick { v with den := false }).map (fun t => (t.vc, t.vmli, t.rc)) = some (40, 0, 5) := by decide

/-- V23, R190, R193. -/
theorem witness_RowCountersAndIdle :
    let v := { at_ .two 57 0x30 with vc := 40, vmli := 40, rc := 7, idle := false }
    (tick v).map (fun t => (t.vcbase, t.rc, t.idle)) = some (40, 7, true)
    ∧ (tick { v with den := true }).map (fun t => (t.vcbase, t.rc, t.idle)) = some (40, 0, false)
    ∧ (tick { v with rc := 3 }).map (fun t => (t.vcbase, t.rc, t.idle)) = some (0, 4, false)
    ∧ (tick { at_ .two 65 262 with vcbase := 35, ref := 220 }).map (fun t => (t.vcbase, t.ref)) = some (0, 255) := by decide

/-- V15, V16: the wrap of the refresh counter, at both ends of its range. -/
theorem witness_RefreshCounterLife :
    after (exec .vicTick (withVic { at_ .two 10 51 with ref := 0 })) (fun t => (lastAccess t, t.vic.ref))
      = some (some ⟨.refresh, some 0x3F00, some 0⟩, 255)
    ∧ after (exec .vicTick (withVic (at_ .two 14 51))) (fun t => (lastAccess t, t.vic.ref))
      = some (some ⟨.refresh, some 0x3FFF, some 0⟩, 254)
    ∧ (tick (at_ .two 15 51)).map (fun t => t.ref) = some 255 := by decide

/-- A block in a bad line, its display on. -/
def badLineAt (ph : Phase) (c : BitVec 7) : Vic :=
  { at_ ph c 0x30 with den := true, badLine := true, idle := false, rc := 0, regs := { Regs.reset with vm := 1 } }

theorem tickReady_badLine15 (m : Memory) : (withMem m { badLineAt .one 15 with vmli := 0 }).TickReady :=
  tickReady_withMem _ _ (by decide) (by decide)

theorem tickReady_badLine54 (m : Memory) : (withMem m { badLineAt .one 54 with vmli := 39 }).TickReady :=
  tickReady_withMem _ _ (by decide) (by decide)

/-- V15: the first and the last c-access. -/
theorem witness_VideoMatrixAccessFillsTheLineCache :
    after (exec .vicTick (withMem [(0x400, 0x5A1)] (badLineAt .one 15)))
        (fun t => (lastAccess t, t.vic.lineCache[0], t.vic.vc, t.vic.vmli))
      = some (some ⟨.videoMatrixColor, some 0x400, some 0x5A1⟩, 0x5A1, 1, 1)
    ∧ after (exec .vicTick (withMem [(0x7FF, 0x123)] { badLineAt .one 54 with vc := 1023, vmli := 39 }))
        (fun t => (lastAccess t, t.vic.lineCache[39], t.vic.vc, t.vic.vmli))
      = some (some ⟨.videoMatrixColor, some 0x7FF, some 0x123⟩, 0x123, 0, 40) := by decide

/-! ## The sprites -/

/-- The reset block with one sprite record replaced, and sprite 3 enabled at line 5. -/
def spriteAt (ph : Phase) (c : BitVec 7) (r : BitVec 9) (p : Sprite) : Vic :=
  { at_ ph c r with
    sprites := Vic.reset.sprites.set 3 p
    regs := { Regs.reset with spriteEnable := 0x08, spriteY := Regs.reset.spriteY.set 3 5 } }

/-- P4, V26: DMA starts at both cycles, on the low 8 bits of the raster; not while DMA is on. -/
theorem witness_SpriteDmaStartsAtCycles55And56 :
    let p : Sprite := ⟨15, 18, true, false, false⟩
    (tick (spriteAt .two 54 5 p)).map (fun t => t.sprites[3]) = some ⟨15, 0, true, true, false⟩
    ∧ (tick (spriteAt .two 55 261 p)).map (fun t => t.sprites[3]) = some ⟨15, 0, true, true, false⟩
    ∧ (tick (spriteAt .two 55 6 p)).map (fun t => t.sprites[3]) = some p
    ∧ (tick (spriteAt .two 55 5 { p with dma := true })).map (fun t => t.sprites[3]) = some { p with dma := true }
    ∧ (tick (spriteAt .two 55 5 p)).map (fun t => t.sprites[2]) = some Sprite.reset := by decide

theorem witness_McbaseFirstIncrementAtCycle15 :
    (tick (spriteAt .two 14 6 ⟨2, 60, true, true, true⟩)).map (fun t => t.sprites[3]) = some ⟨2, 62, true, true, true⟩
    ∧ (tick (spriteAt .two 14 6 ⟨2, 60, false, true, true⟩)).map (fun t => t.sprites[3]) = some ⟨2, 60, false, true, true⟩ := by
  decide

/-- P4: the DMA ends when `mcbase` reaches 63, and not before. -/
theorem witness_McbaseSecondIncrementEndsDmaAt63 :
    (tick (spriteAt .two 15 26 ⟨62, 62, true, true, true⟩)).map (fun t => t.sprites[3]) = some ⟨62, 63, true, false, false⟩
    ∧ (tick (spriteAt .two 15 26 ⟨62, 61, true, true, true⟩)).map (fun t => t.sprites[3]) = some ⟨62, 62, true, true, true⟩
    ∧ (tick (spriteAt .two 15 26 ⟨62, 62, false, true, true⟩)).map (fun t => t.sprites[3]) = some ⟨62, 62, false, true, true⟩ := by
  decide

/-- P4: display starts only in the sprite's own line and only in DMA. -/
theorem witness_McReloadAndDisplayStartAtCycle58 :
    (tick (spriteAt .two 57 5 ⟨15, 3, true, true, false⟩)).map (fun t => t.sprites[3]) = some ⟨3, 3, true, true, true⟩
    ∧ (tick (spriteAt .two 57 6 ⟨15, 3, true, true, false⟩)).map (fun t => t.sprites[3]) = some ⟨3, 3, true, true, false⟩
    ∧ (tick (spriteAt .two 57 5 ⟨15, 3, true, false, false⟩)).map (fun t => t.sprites[3]) = some ⟨3, 3, true, false, false⟩ := by
  decide

/-- P4, V15: the pointer fetch and the two data fetches of sprite 3. -/
theorem witness_SpriteFetchesMoveMcAndThePointer :
    after (exec .vicTick (withMem [(0x3FB, 0x30D)] (spriteAt .two 1 6 ⟨0, 0, true, true, true⟩)))
        (fun t => (lastAccess t, t.vic.sprPtr, t.vic.sprites[3].mc))
      = some (some ⟨.spritePointer 3, some 0x3FB, some 0x30D⟩, 0x0D, 0)
    ∧ after (exec .vicTick (withMem [(0x340, 0xA0)] { spriteAt .one 2 6 ⟨0, 0, true, true, true⟩ with sprPtr := 0x0D }))
        (fun t => (lastAccess t, t.vic.sprPtr, t.vic.sprites[3].mc))
      = some (some ⟨.spriteData 3, some 0x340, some 0xA0⟩, 0x0D, 1)
    ∧ after (exec .vicTick (withVic { spriteAt .two 2 6 ⟨61, 0, true, true, true⟩ with sprPtr := 0xFF }))
        (fun t => (lastAccess t, t.vic.sprites[3].mc))
      = some (some ⟨.spriteData 3, some 0x3FFD, some 0⟩, 62) := by decide

/-! ## Slot decode and bus ownership -/

theorem witness_SlotDecodeIsTheSlotMap :
    (1 ≤ (1 : BitVec 7).toNat ∧ (65 : BitVec 7).toNat ≤ 65) ∧ (0 : BitVec 7).toNat = 0 ∧ 65 < (66 : BitVec 7).toNat := by decide

/-- V13. -/
theorem test_slot_decode :
    let d3 : Fin 8 → Bool := fun n => n == 3
    let none_ : Fin 8 → Bool := fun _ => false
    let all : Fin 8 → Bool := fun _ => true
    (slotDecode .one 2 false none_).toOption = some (.spritePointer 3)
    ∧ (slotDecode .one 3 false none_).toOption = some .idle ∧ (slotDecode .one 3 false d3).toOption = some (.spriteData 3)
    ∧ (slotDecode .two 2 false none_).toOption = some .cpuOwned ∧ (slotDecode .two 10 false all).toOption = some (.spriteData 7)
    ∧ (slotDecode .one 11 true all).toOption = some .refresh ∧ (slotDecode .two 15 true all).toOption = some .videoMatrixColor
    ∧ (slotDecode .two 15 false all).toOption = some .cpuOwned ∧ (slotDecode .one 55 true all).toOption = some .bitmapChar
    ∧ (slotDecode .two 55 true all).toOption = some .cpuOwned ∧ (slotDecode .two 65 true all).toOption = some .cpuOwned
    ∧ (slotDecode .one 65 true all).toOption = some (.spriteData 2) := by decide

/-- Both sides of the c-window's ends and of a sprite window's ends (V18, V20). -/
theorem witness_BaFollowsTheWindows :
    let none_ : Fin 8 → Bool := fun _ => false
    let d3 : Fin 8 → Bool := fun n => n == 3
    SpecBaLow .one 12 true none_ ∧ SpecBaLow .two 54 true none_ ∧ ¬SpecBaLow .two 11 true none_ ∧ ¬SpecBaLow .one 55 true none_
    ∧ SpecBaLow .one 64 false d3 ∧ SpecBaLow .one 3 false d3 ∧ ¬SpecBaLow .two 63 false d3 ∧ ¬SpecBaLow .two 3 false d3 := by
  decide

/-- V18, V20, computed. -/
theorem test_ba :
    let none_ : Fin 8 → Bool := fun _ => false
    let d3 : Fin 8 → Bool := fun n => n == 3
    [baLevel .two 11 true none_, baLevel .one 12 true none_, baLevel .two 54 true none_, baLevel .one 55 true none_]
      = [.high, .low, .low, .high]
    ∧ [baLevel .two 63 false d3, baLevel .one 64 false d3, baLevel .one 3 false d3, baLevel .two 3 false d3]
      = [.high, .low, .low, .high] := by decide

theorem witness_AecIsHighExactlyWhenTheCpuOwnsTheBus :
    (slotDecode .two 1 false (fun _ => false)).toOption = some .cpuOwned
    ∧ (slotDecode .two 15 true (fun _ => false)).toOption = some .videoMatrixColor := by decide

/-- The two ends of the lead, and a slot at the start of a line, whose lead is in the line before (E5). -/
theorem witness_BaLeadsEveryTakenPhase2SlotByThreeCycles :
    let d3 : Fin 8 → Bool := fun n => n == 3
    slotIndex .two 15 = slotIndex .one 15 + 1 ∧ slotIndex .two 15 = slotIndex .two 12 + 6
    ∧ slotIndex .two 2 + 130 = slotIndex .two 64 + 6
    ∧ (slotDecode .two 15 true d3).toOption ≠ some .cpuOwned ∧ (slotDecode .two 2 false d3).toOption ≠ some .cpuOwned := by
  decide

/-- P5: the record of a step, the address pins and the two ownership pins, in the first two slots after reset. -/
theorem test_tick_drives_the_pins :
    after (exec .vicTick State.reset) (fun t => (t.out, t.blockLevel .ba, t.blockLevel .aec, t.blockLevel (.a 13)))
      = some ([.access ⟨0, 1, .one, .idle, some 0x3FFF, some 0, false, .high, .low⟩], .high, .low, .high)
    ∧ after (exec .vicTick (withVic (at_ .one 1 0))) (fun t => (t.out, t.blockLevel .aec, t.blockLevel (.a 13)))
      = some ([.access ⟨0, 1, .two, .cpuOwned, none, none, false, .high, .high⟩], .high, .floating) := by decide

theorem witness_ReadsSampleTheDataPins :
    (withMem [(0x400, 0x5A1)] Vic.reset).env.mem = some [(0x400, 0x5A1)] ∧ State.reset.env.mem = none := by decide

/-- R41, R50: a `1` on D[11] is bit 11; a floating bit reads as 0. -/
theorem test_data_pins :
    ({ State.reset with pins := Arena.put State.reset.pins (BlockPin.d 11).terminal (pinOf .input .high none []) } : State).busData
      0 = 0x800 := by decide

/-! ## Words of the scheduler run by themselves -/

theorem witness_SlotRowsRunTheirSlot :
    Instr.slotOf .slotP1C01 = some (.one, 1) ∧ Instr.slotOf .slotP2C65 = some (.two, 65)
    ∧ (specSlot .two 15 true (fun _ => false) = .videoMatrixColor ∧ (39 : BitVec 6).toNat < 40)
    ∧ specSlot .one 15 true (fun _ => false) ≠ .videoMatrixColor := by decide

theorem witness_ready (bs : List BlockPin) :
    (withVic Vic.reset).Ready bs ∧ (withMem [(0x400, 0x5A1)] (badLineAt .one 15)).Ready bs :=
  ⟨ready_withVic _ bs, ready_withMem _ _ bs⟩

/-- V13: one slot of each kind. -/
theorem test_slot_rows :
    after (exec .slotP1C01 (withVic Vic.reset)) lastAccess = some (some ⟨.idle, some 0x3FFF, some 0⟩)
    ∧ after (exec .slotP1C12 (withVic Vic.reset)) lastAccess = some (some ⟨.refresh, some 0x3FFF, some 0⟩)
    ∧ after (exec .slotP1C02 (withVic Vic.reset)) lastAccess = some (some ⟨.spritePointer 3, some 0x3FB, some 0⟩)
    ∧ after (exec .slotP2C02 (withVic (spriteAt .one 1 6 ⟨5, 0, true, true, true⟩))) lastAccess
      = some (some ⟨.spriteData 3, some 5, some 0⟩)
    ∧ after (exec .slotP2C15 (withVic (badLineAt .one 15))) lastAccess = some (some ⟨.videoMatrixColor, some 0x400, some 0⟩)
    ∧ after (exec .slotP1C16 (withVic (badLineAt .one 15))) lastAccess = some (some ⟨.bitmapChar, some 0, some 0⟩)
    ∧ after (exec .slotP2C65 (withVic Vic.reset)) lastAccess = some (some ⟨.cpuOwned, none, none⟩) := by decide

theorem witness_LineCacheIndexOutOfRangeIsAViolation :
    40 ≤ (40 : BitVec 6).toNat ∧ Instr.slotOf .slotP2C54 = some (.two, 54)
    ∧ specSlot .two 54 true (fun _ => false) = .videoMatrixColor
    ∧ (withVic { badLineAt .one 15 with vmli := 40 }).Ready slotBlockPins
    ∧ (withVic { badLineAt .one 15 with vmli := 40 }).Ready addressBlockPins :=
  ⟨by decide, rfl, by decide, ready_withVic _ _, ready_withVic _ _⟩

/-- Code 11. -/
theorem test_line_cache_index :
    faultOf (exec .accVideoMatrixColor (withVic { badLineAt .one 15 with vmli := 40 })) = some (.contractViolation (.lineCacheIndex 40))
    ∧ faultOf (exec .slotP2C54 (withVic { badLineAt .one 15 with vmli := 40 }))
      = some (.contractViolation (.lineCacheIndex 40)) := by decide

theorem witness_AccessRowsMakeTheirAccess :
    Instr.accOf .accIdle = some .idle ∧ Instr.accOf .accVideoMatrixColor = some .videoMatrixColor ∧ (39 : BitVec 6).toNat < 40
    ∧ (Instr.accOf .accBitmapChar = some .bitmapChar ∧ Vic.reset.idle = true)
    ∧ (16 ≤ (16 : BitVec 7).toNat ∧ (55 : BitVec 7).toNat ≤ 55)
    ∧ (1 ≤ (at_ .one 1 0).cycle.toNat ∧ (at_ .two 65 0).cycle.toNat ≤ 65) := by decide

/-- BA and AEC in the record of a word run by itself: those of the coordinate it stands at (log 9). -/
theorem test_acc_ownership :
    (after (exec .accIdle (withVic (badLineAt .two 12))) State.out).map (List.map fun e =>
        match e with
        | .access r => some (r.ba, r.aec)
        | _ => none) = some [some (.low, .high)]
    ∧ (after (exec .accVideoMatrixColor (withVic (badLineAt .two 15))) State.out).map (List.map fun e =>
        match e with
        | .access r => some (r.ba, r.aec)
        | _ => none) = some [some (.low, .low)] := by decide

/-- V15: each access type with its address and its side effect. -/
theorem test_acc_rows :
    after (exec .accIdle (withVic { Vic.reset with regs := { Regs.reset with ecm := true } })) lastAccess
      = some (some ⟨.idle, some 0x39FF, some 0⟩)
    ∧ after (exec .accRefresh (withVic { Vic.reset with ref := 0 })) (fun t => (lastAccess t, t.vic.ref))
      = some (some ⟨.refresh, some 0x3F00, some 0⟩, 255)
    ∧ after (exec .accVideoMatrixColor (withVic { badLineAt .one 15 with vc := 1023, vmli := 39, regs := { Regs.reset with vm := 15 } }))
        (fun t => (lastAccess t, t.vic.vc, t.vic.vmli)) = some (some ⟨.videoMatrixColor, some 0x3FFF, some 0⟩, 0, 40)
    ∧ after (exec (.accSpritePointer 4) (withMem [(0x7FC, 0x30D)] { Vic.reset with regs := { Regs.reset with vm := 1 } }))
        (fun t => t.vic.sprPtr) = some 0x0D
    ∧ after (exec (.accSpriteData 0) (withVic { Vic.reset with sprPtr := 1, sprites := Vic.reset.sprites.set 0 ⟨0x7F, 0, true, true, true⟩ }))
        (fun t => (lastAccess t, t.vic.sprites[0].mc)) = some (some ⟨.spriteData 0, some 0x7F, some 0⟩, 0x80)
    ∧ after (exec .accBitmapChar (withVic Vic.reset)) lastAccess = some (some ⟨.bitmapChar, some 0x3FFF, some 0⟩)
    ∧ after (exec .accCpuOwned (withVic Vic.reset)) lastAccess = some (some ⟨.cpuOwned, none, none⟩) := by decide

theorem witness_GraphicsModeRowsAddress :
    Instr.gmodeOf .gmode0 = some 0 ∧ Instr.gmodeOf .gmode7 = some 7 ∧ 16 ≤ (at_ .one 16 0).cycle.toNat
    ∧ (at_ .one 55 0).cycle.toNat ≤ 55 := by decide

/-- V15: the text modes (`cb` 2, `rc` 3, cache byte 0xC1 or 0x01). -/
theorem test_text_modes :
    let v (b : BitVec 12) : Vic :=
      { at_ .one 16 0 with idle := false, rc := 3, lineCache := Vic.reset.lineCache.set 0 b, regs := { Regs.reset with cb := 2 } }
    after (exec .gmode0 (withVic (v 0x701))) lastAccess = some (some ⟨.bitmapChar, some 0x100B, some 0⟩)
    ∧ after (exec .gmode1 (withVic (v 0x701))) lastAccess = some (some ⟨.bitmapChar, some 0x100B, some 0⟩)
    ∧ after (exec .gmode4 (withVic (v 0x0C1))) lastAccess = some (some ⟨.bitmapChar, some 0x100B, some 0⟩)
    ∧ after (exec .gmode5 (withVic (v 0x0C1))) lastAccess = some (some ⟨.bitmapChar, some 0x100B, some 0⟩) := by decide

/-- V15: the bitmap modes. -/
theorem test_bitmap_modes :
    let v (cb : BitVec 3) (base : BitVec 10) (c : BitVec 7) (rc : BitVec 3) : Vic :=
      { at_ .one c 0 with idle := false, rc := rc, vcbase := base, regs := { Regs.reset with cb := cb } }
    after (exec .gmode2 (withVic (v 4 40 18 7))) lastAccess = some (some ⟨.bitmapChar, some 0x2157, some 0⟩)
    ∧ after (exec .gmode2 (withVic (v 3 1000 55 0))) lastAccess = some (some ⟨.bitmapChar, some 0x0078, some 0⟩)
    ∧ after (exec .gmode3 (withVic (v 4 40 18 7))) lastAccess = some (some ⟨.bitmapChar, some 0x2157, some 0⟩)
    ∧ after (exec .gmode6 (withVic (v 4 200 16 0))) lastAccess = some (some ⟨.bitmapChar, some 0x2040, some 0⟩)
    ∧ after (exec .gmode7 (withVic (v 4 200 16 0))) lastAccess = some (some ⟨.bitmapChar, some 0x2040, some 0⟩) := by decide

/-! ## The register side -/

/-- The ends of the ranges of ids that name no field. -/
theorem witness_RegisterWritesChangeOneField :
    (8 < (9 : FieldId).toNat ∧ (9 : FieldId).toNat < 0x10) ∧ (15 : FieldId).toNat < 0x10 ∧ 0x17 < (0x18 : FieldId).toNat
    ∧ 0x17 < (0xFFF : FieldId).toNat := by decide

/-- V29, V30. -/
theorem test_set_field :
    after (exec (.vicSetField 0 11) State.reset) (fun t => t.vic.regs.yscroll) = some 3
    ∧ after (exec (.vicSetField 5 0x1F) State.reset) (fun t => t.vic.regs.vm) = some 15
    ∧ after (exec (.vicSetField 0x13 0x105) State.reset) (fun t => t.vic.regs.spriteY[3]) = some 5
    ∧ faultOf (exec (.vicSetField 9 1) State.reset) = some (.contractViolation (.noSuchField 9)) := by decide

/-- V27. -/
theorem test_write_yexpand :
    let v := { Vic.reset with sprites := (Vic.reset.sprites.set 0 ⟨0, 0, false, false, false⟩).set 3 ⟨0, 0, false, false, false⟩ }
    after (exec (.vicWriteYExpand 0x08) (withVic v)) (fun t => (t.vic.sprites[0].yexp, t.vic.sprites[3].yexp, t.vic.regs.spriteYExpand))
      = some (true, false, 0x08) := by decide

theorem test_write_raster_compare :
    after (exec (.vicWriteRasterCompare 0x133) State.reset) (fun t => (t.vic.rasterLatch, t.vic.irqRequestRaster))
      = some (0x133, false) := by decide

/-- An interrupt line (P5): IRQ at handle 4 drives `0` on a trace that is pulled up; p7 listens. -/
def irqLine : State :=
  { boardOf [(4, pinOf .output .low (some 3) []), (7, pinOf .input .low (some 3) [3])] [(3, ⟨[4, 7], .up, .low⟩)] with
    vic := { Vic.reset with irqRequestRaster := true } }

theorem witness_AcknowledgeReleasesTheLine :
    irqLine.Ready [.irq] ∧ irqLine.BlockPinsOk ∧ (irqLine.pins.find (irqLine.blockHandle .irq)).map Pin.trace = some (some 3)
    ∧ irqLine.traces.find 3 = some ⟨[4, 7], .up, .low⟩
    ∧ (∀ p ∈ [4, 7], p ≠ irqLine.blockHandle .irq → ¬ActivelyDrives irqLine p .high)
    ∧ ∀ p ∈ [4, 7], p ≠ irqLine.blockHandle .irq → ¬ActivelyDrives irqLine p .low := by
  refine ⟨⟨by decide, by decide, by decide, by decide⟩, by decide, by decide, by decide, ?_, ?_⟩ <;>
    · simp only [activelyDrives_iff]
      decide

theorem test_ack :
    after (exec .vicAckRasterIrq irqLine) (fun t => (t.vic.irqRequestRaster, t.blockLevel .irq, t.traceLevel 3, t.out))
      = some (false, .floating, .high, [.invoked 3 7 .high]) := by decide

/-! ## The whole machine -/

theorem witness_EveryStepKeepsTheInvariant : board.Inv ∧ (after (step (board.withFetchWord 32 0x0A000000)) levels).isSome = true :=
  ⟨⟨by decide, by decide, by decide, by decide, by decide, by intro m h; cases h⟩, by decide⟩

theorem witness_EveryStepLeavesThePinsSynchronised : board.Synced := by decide

theorem witness_PinAndTraceOperationsLeaveTheBlockAlone :
    let s := listening 1 (.prog (.cmd 0x0A000000 .done))
    s.SubstrateBoard ∧ Instr.onSubstrate (.traceSet 0) = true ∧ Instr.onSubstrate (.updateLevel 0) = true
    ∧ (after (exec (.traceSet 0) s) levels).isSome = true := by decide

/-- The premise `exec i s = next t` of the statements about every next state, met by instructions of each kind. -/
theorem witness_next_states :
    (after (exec (.pinSet 0) board) levels).isSome = true ∧ (after (exec (.traceNew 9) board) levels).isSome = true
    ∧ (after (exec .vicTick State.reset) levels).isSome = true ∧ (after (exec .slotP1C16 State.reset) levels).isSome = true
    ∧ board.pins.has 1 = true ∧ board.traces.has 0 = true ∧ ((board.pins.find 1).map Pin.trace) = some (some 0) := by decide

/-- Two steps of the clock from reset (V9). -/
theorem witness_TheClockRunsForever :
    after (times .vicTick 2 State.reset) (fun t => t.vic.frameIndex) = some 1 ∧ Vic.reset.frameIndex = 34189 := by decide

/-- Program P5 once it is wired, its clock line at `clk`: the clock source p0 and PHI p1 on t0; BA p2, AEC p3 and IRQ p4, each
with its receiver, on t1, t2, t3; L0 is id 0xFFF. The address pins stay the block's own terminals. -/
def p5 (clk : Signal) : State :=
  { boardOf
      [(0, pinOf .output clk (some 0) []), (1, pinOf .input clk (some 0) [Env.stepListener]),
        (2, pinOf .output .high (some 1) []), (3, pinOf .output .high (some 2) []), (4, pinOf .output .floating (some 3) []),
        (5, pinOf .input .high (some 1) [1]), (6, pinOf .input .high (some 2) [2]), (7, pinOf .input .high (some 3) [3])]
      [(0, ⟨[0, 1], .none, clk⟩), (1, ⟨[2, 5], .none, .high⟩), (2, ⟨[3, 6], .none, .high⟩), (3, ⟨[4, 7], .up, .high⟩)] with
    vic := { Vic.reset with regs := { Regs.reset with irqEnableRaster := true } } }

theorem ready_p5 (clk : Signal) : (p5 clk).TickReady := by
  cases clk <;> exact ⟨⟨by decide, by decide, by decide, by decide⟩, by decide, by decide⟩

/-- The first edge of P5, and its clock source toggled. -/
theorem witness_EdgesOfPhiRunTheBlock :
    let u := (p5 .floating).setPin 0 (pinOf .output .high (some 0) [])
    let phi := pinOf .input .floating (some 0) [Env.stepListener]
    (p5 .floating).Resolves (.pinSetLevel 0 .high) 0 .floating u
    ∧ OneListener u 0 1 Env.stepListener 63 ⟨[0, 1], .none, .floating⟩ phi
    ∧ u.behaviour Env.stepListener = some .vicStep ∧ (p5 .floating).TickReady
    ∧ adopt phi (resolve u ⟨[0, 1], .none, .floating⟩ .floating) ≠ phi.level
    ∧ (p5 .high).PhiBoard 0 0 1 Env.stepListener :=
  ⟨.inr ⟨0, pinOf .output .floating (some 0) [], .high, rfl, rfl, rfl, .inl rfl, rfl, rfl⟩,
    ⟨rfl, ⟨rfl, ⟨[0], rfl, by decide⟩, rfl, rfl, rfl⟩, rfl⟩, rfl, ready_p5 _, by decide,
    ⟨ready_p5 _, by decide, rfl,
      ⟨⟨[0, 1], .none, .high⟩, pinOf .output .high (some 0) [], pinOf .input .high (some 0) [Env.stepListener],
        ⟨rfl, ⟨[0], rfl, by decide⟩, rfl, rfl, rfl⟩, rfl, rfl, rfl, rfl, rfl, rfl, rfl, by decide⟩⟩⟩

/-- P5, `level p0 1`: the levels of p0 to p7, the calls L0, L3, L2 in this order, and the coordinate (0, 1, 1). -/
theorem test_p5_first_edge :
    after (exec (.pinSetLevel 0 .high) (p5 .floating)) (fun t => ([0, 1, 2, 3, 4, 5, 6, 7].map t.pinLevel, t.out.tail,
        (t.vic.raster, t.vic.cycle, t.vic.phase)))
      = some ([.high, .high, .high, .low, .low, .high, .low, .low],
        [.invoked 2 6 .low, .invoked 3 7 .low, .invoked Env.stepListener 1 .high], (0, 1, .one)) := by decide

end Sys2Proof.Tests
end

/-! PROOFS. One step of the machine: what it does with an empty queue, with a word that decodes, and with a word placed in
front (R7, R46; logs 6 and 12). -/
namespace Sys2Proof.Machine

theorem runFetched_of_decode {f : Fetch} {i : Instr} (hdec : decode f = .ok i) (s : State) :
    runFetched f s = exec i s := by
  rw [runFetched, hdec]

theorem step_of_pending_nil {s : State} (hnil : s.pending = []) : step s = .next s := by
  rw [step, hnil]

theorem step_of_pending_cons {s : State} {f : Fetch} {rest : List Fetch} (hcons : s.pending = f :: rest) :
    step s = runFetched f { s with pending := rest } := by
  rw [step, hcons]

/-- A table row names an instruction only through a word at the port of its format (log 12). -/
theorem decodeTableWord_eq_some {nbits w : Nat} {i : Instr} (h : decodeTableWord nbits w = some i) :
    ∃ f, fetchOfTableWord nbits w = some f ∧ decode f = .ok i := by
  cases hf : fetchOfTableWord nbits w with
  | none => simp [decodeTableWord, hf] at h
  | some f =>
    cases hd : decode f with
    | error v => simp [decodeTableWord, hf, hd, Except.toOption] at h
    | ok j =>
      obtain rfl : j = i := by simpa [decodeTableWord, hf, hd, Except.toOption] using h
      exact ⟨f, rfl, hd⟩

theorem State.withFetchWord_of_fetch {nbits w : Nat} {f : Fetch} (hf : fetchOfTableWord nbits w = some f) (s : State) :
    s.withFetchWord nbits w = { s with pending := f :: s.pending } := by
  rw [State.withFetchWord, hf]

/-- Taking the placed word leaves the queue as it was before the placing. -/
theorem step_withFetchWord {nbits w : Nat} {i : Instr} (h : decodeTableWord nbits w = some i) (s : State) :
    step (s.withFetchWord nbits w) = exec i s := by
  obtain ⟨f, hf, hdec⟩ := decodeTableWord_eq_some h
  calc step (s.withFetchWord nbits w)
      = step { s with pending := f :: s.pending } := by rw [State.withFetchWord_of_fetch hf]
    _ = runFetched f s := step_of_pending_cons rfl
    _ = exec i s := runFetched_of_decode hdec s

/-- Settles O5: the oldest pending word is taken off the queue and decoded, and `exec` of its instruction is the step. -/
theorem stepRunsTheDecodedInstruction : Obligations.StepRunsTheDecodedInstruction := by
  refine ⟨fun s f rest i hcons hdec => ?oldest, fun _ => step_of_pending_nil, fun s _ _ _ h => step_withFetchWord h s⟩
  case oldest => rw [step_of_pending_cons hcons, runFetched_of_decode hdec]

end Sys2Proof.Machine

/-! PROOFS. What every step keeps on every board: the invariant and the synchronised pins, the parameters and the memory, the
pins, traces and listeners that are there, and, where listeners keep to pins and traces, the block. Each is a relation that the
single updates respect (`Move`, `VicMove`), lifted to every instruction by `exec_answers`. -/
namespace Sys2Proof.Machine

/-! ## From the updates to a step -/

/-- A completed step waited, or ran one instruction with that stimulus taken off the queue. -/
theorem step_eq_next {s t : State} (h : step s = .next t) :
    t = s ∨ ∃ rest i, exec i { s with pending := rest } = .next t := by
  cases hp : s.pending with
  | nil =>
    rw [step_of_pending_nil hp] at h
    cases h; exact .inl rfl
  | cons f rest =>
    rw [step_of_pending_cons hp] at h
    cases hd : decode f with
    | error v => rw [runFetched, hd] at h; exact absurd h (violate_ne_next v t)
    | ok i => rw [runFetched_of_decode hd] at h; exact .inr ⟨rest, i, h⟩

/-- A relation that every update respects, and that does not look at the queue, relates the ends of a step. -/
theorem step_related {R : State → State → Prop} (hR : ClosedVic R) (hq : ∀ s rest, R s { s with pending := rest })
    {s t : State} (h : step s = .next t) : R s t := by
  rcases step_eq_next h with rfl | ⟨rest, i, hx⟩
  · exact hR.refl t
  · exact hR.trans _ _ _ (hq s rest) ((exec_answers hR i _).next hx)

/-- A pin or trace update touches neither the block, the parameters, the queue nor the free-value counter. -/
theorem Move.sameRest {s u : State} (h : Move s u) : SameRest s u := by
  cases h <;> exact ⟨rfl, rfl, rfl, rfl⟩

/-- A pin or trace update takes nothing back that was handed out. -/
theorem Move.out_suffix {s u : State} (h : Move s u) : s.out <:+ u.out := by
  cases h with
  | emit e => exact List.suffix_cons e s.out
  | _ => exact List.suffix_rfl

/-! ## The invariant (R11, R13, R17, R81, R192, R194, R203) -/

/-- If the first state meets the invariant, so does the second. -/
def KeepsInv (s u : State) : Prop := s.Inv → u.Inv

theorem Move.inv {s u : State} (h : Move s u) (hs : s.Inv) : u.Inv := by
  obtain ⟨hvic, henv, -, -⟩ := h.sameRest
  exact {
    wired := h.wired hs.wired
    resolved := h.resolved hs.wired hs.resolved
    terminals := fun b hb => h.has (hs.terminals b hb)
    coord := hvic ▸ hs.coord
    counters := hvic ▸ hs.counters
    memory := henv ▸ hs.memory }

theorem State.Inv.setVic {s : State} (hs : s.Inv) {v : Vic} (hv : VicMove s.vic v) : (s.setVic v).Inv :=
  { hs with coord := hv.coord hs.coord, counters := hv.counters hs.counters }

theorem keepsInv_respectsVic : RespectsVic KeepsInv where
  refl _ := id
  trans _ _ _ h h' := h' ∘ h
  move h := h.inv
  vic _ _ hv hs := hs.setVic hv
  free _ hs := { hs with }

/-- Settles O54: each single update keeps the invariant, hence every instruction, and the invariant does not read the queue. -/
theorem everyStepKeepsTheInvariant : Obligations.EveryStepKeepsTheInvariant := fun _ _ hs h =>
  step_related (R := KeepsInv) keepsInv_respectsVic.closedVic (fun _ _ hi => { hi with }) h hs

/-! ## Synchronised pins (R14) -/

/-- Settles O55: every instruction keeps all the pins outside any given set synchronised, here outside the empty set. -/
theorem everyStepLeavesThePinsSynchronised : Obligations.EveryStepLeavesThePinsSynchronised := fun s t hi hs h => by
  have hst : Syncs s t := step_related syncs_closed (fun _ _ _ hw hb => ⟨hw, hb⟩) h
  obtain ⟨hw, hb⟩ := hst _ hi.wired ((State.synced_iff hi.wired).mp hs)
  exact (State.synced_iff hw).mpr hb

/-! ## Parameters, memory and outputs (R28, R43) -/

/-- The parameters and the queue are the same, what was handed out still is, and no free value was put back. -/
structure HoldsParameters (s u : State) : Prop where
  env     : u.env = s.env
  pending : u.pending = s.pending
  out     : s.out <:+ u.out
  freeCtr : s.freeCtr ≤ u.freeCtr

theorem HoldsParameters.trans {s t u : State} (h : HoldsParameters s t) (h' : HoldsParameters t u) : HoldsParameters s u where
  env := h'.env.trans h.env
  pending := h'.pending.trans h.pending
  out := h.out.trans h'.out
  freeCtr := h.freeCtr.trans h'.freeCtr

theorem Move.holdsParameters {s u : State} (h : Move s u) : HoldsParameters s u := by
  obtain ⟨-, henv, hpending, hfree⟩ := h.sameRest
  exact ⟨henv, hpending, h.out_suffix, hfree.ge⟩

theorem holdsParameters_respectsVic : RespectsVic HoldsParameters where
  refl _ := ⟨rfl, rfl, List.suffix_rfl, le_rfl⟩
  trans _ _ _ h h' := h.trans h'
  move h := h.holdsParameters
  vic _ _ _ := ⟨rfl, rfl, List.suffix_rfl, le_rfl⟩
  free s := ⟨rfl, rfl, List.suffix_rfl, Nat.le_succ s.freeCtr⟩

/-- What the memory holds at an address is a parameter. -/
theorem State.memAt_congr {s u : State} (h : u.env = s.env) (a : BitVec 14) : u.memAt a = s.memAt a := by
  rw [State.memAt, h, State.memAt]

/-- Settles O56: the parameters are held by each single update, and the memory is one of them. -/
theorem noInstructionChangesParametersOrMemory : Obligations.NoInstructionChangesParametersOrMemory := fun i s _ h =>
  have hp := (exec_answers holdsParameters_respectsVic.closedVic i s).next h
  ⟨hp.env, State.memAt_congr hp.env, hp.pending, hp.out, hp.freeCtr⟩

/-! ## Pins, traces, members and listeners only grow (R11, R13) -/

section Grows
variable {α : Type} {r : α → α → Prop} {m n l : Arena α}

/-- Every record of `m` is still there in `n`, as one that `r` relates it to. -/
def Arena.Grows (r : α → α → Prop) (m n : Arena α) : Prop := ∀ k x, m.find k = some x → ∃ y, n.find k = some y ∧ r x y

theorem Arena.Grows.refl (hr : ∀ x, r x x) (m : Arena α) : m.Grows r m := fun _ x h => ⟨x, h, hr x⟩

theorem Arena.Grows.trans (hr : ∀ x y z, r x y → r y z → r x z) (h : m.Grows r n) (h' : n.Grows r l) : m.Grows r l :=
  fun k x hx => by
    obtain ⟨y, hy, hxy⟩ := h k x hx
    obtain ⟨z, hz, hyz⟩ := h' k y hy
    exact ⟨z, hz, hr _ _ _ hxy hyz⟩

/-- A write over a record that it is related to. -/
theorem Arena.grows_put (hr : ∀ x, r x x) {k : Nat} {x y : α} (hx : m.find k = some x) (hxy : r x y) : m.Grows r (m.put k y) :=
  fun k' x' h => by
    rw [Arena.find_put]
    by_cases e : k' = k
    · subst e
      rw [hx] at h; cases h
      exact ⟨y, if_pos rfl, hxy⟩
    · exact ⟨x', (if_neg e).trans h, hr x'⟩

/-- A write at a new handle. -/
theorem Arena.grows_put_new (hr : ∀ x, r x x) {k : Nat} (hk : m.has k = false) (y : α) : m.Grows r (m.put k y) :=
  fun k' x' h => by
    have hne : k' ≠ k := by
      rintro rfl
      rw [Arena.has, h] at hk; cases hk
    exact ⟨x', (Arena.find_put_ne m hne y).trans h, hr x'⟩

end Grows

/-- A pin keeps its identity and its listeners, and stays on the trace that it is on. -/
structure Pin.GrowsTo (pin pin' : Pin) : Prop where
  number    : pin'.number = pin.number
  name      : pin'.name = pin.name
  listeners : pin.listeners <+: pin'.listeners
  trace     : ∀ t, pin.trace = some t → pin'.trace = some t

theorem Pin.GrowsTo.refl (pin : Pin) : pin.GrowsTo pin := ⟨rfl, rfl, List.prefix_rfl, fun _ => id⟩

theorem Pin.GrowsTo.trans (a b c : Pin) (h : a.GrowsTo b) (h' : b.GrowsTo c) : a.GrowsTo c where
  number := h'.number.trans h.number
  name := h'.name.trans h.name
  listeners := h.listeners.trans h'.listeners
  trace t ht := h'.trace t (h.trace t ht)

/-- Of a pin's settings nothing is asked. -/
theorem Pin.growsTo_settings (pin : Pin) (m : Mode) (pull : Pull) (v : Signal) :
    pin.GrowsTo { pin with mode := m, pull := pull, level := v } := ⟨rfl, rfl, List.prefix_rfl, fun _ => id⟩

/-- A trace keeps its members, in front of any new ones. -/
def Trace.GrowsTo (tr tr' : Trace) : Prop := tr.members <+: tr'.members

theorem Trace.GrowsTo.refl (tr : Trace) : tr.GrowsTo tr := List.prefix_rfl

theorem Trace.GrowsTo.trans (a b c : Trace) : a.GrowsTo b → b.GrowsTo c → a.GrowsTo c := List.IsPrefix.trans

theorem Trace.growsTo_append (tr : Trace) (p : Nat) : tr.GrowsTo { tr with members := tr.members ++ [p] } :=
  List.prefix_append _ _

/-- The board has all that it had: pins, listeners, traces, members. -/
structure BoardGrows (s u : State) : Prop where
  pins   : s.pins.Grows Pin.GrowsTo u.pins
  traces : s.traces.Grows Trace.GrowsTo u.traces

theorem BoardGrows.of_eq {s u : State} (hp : u.pins = s.pins) (ht : u.traces = s.traces) : BoardGrows s u where
  pins := hp ▸ Arena.Grows.refl Pin.GrowsTo.refl s.pins
  traces := ht ▸ Arena.Grows.refl Trace.GrowsTo.refl s.traces

theorem BoardGrows.refl (s : State) : BoardGrows s s := .of_eq rfl rfl

theorem BoardGrows.trans {s t u : State} (h : BoardGrows s t) (h' : BoardGrows t u) : BoardGrows s u where
  pins := h.pins.trans Pin.GrowsTo.trans h'.pins
  traces := h.traces.trans Trace.GrowsTo.trans h'.traces

/-- A pin of the board changes as a pin may. -/
theorem BoardGrows.setPin {s u : State} (h : BoardGrows s u) {p : Nat} {pin pin' : Pin} (hp : u.pins.find p = some pin)
    (hg : pin.GrowsTo pin') : BoardGrows s (u.setPin p pin') :=
  h.trans ⟨Arena.grows_put Pin.GrowsTo.refl hp hg, .refl Trace.GrowsTo.refl _⟩

/-- A trace of the board changes as a trace may. -/
theorem BoardGrows.setTrace {s u : State} (h : BoardGrows s u) {t : Nat} {tr tr' : Trace} (ht : u.traces.find t = some tr)
    (hg : tr.GrowsTo tr') : BoardGrows s (u.setTrace t tr') :=
  h.trans ⟨.refl Pin.GrowsTo.refl _, Arena.grows_put Trace.GrowsTo.refl ht hg⟩

/-- A pin that is on no other trace joins one, which takes it as its last member (R98). -/
theorem BoardGrows.join {s : State} {p t : Nat} {pin : Pin} {tr : Trace} (hp : s.pins.find p = some pin)
    (ht : s.traces.find t = some tr) (hpt : pin.trace = none ∨ pin.trace = some t) :
    BoardGrows s ((s.setTrace t { tr with members := tr.members ++ [p] }).setPin p { pin with trace := some t }) := by
  refine ((BoardGrows.refl s).setTrace ht (tr.growsTo_append p)).setPin hp ⟨rfl, rfl, List.prefix_rfl, fun t' ht' => ?_⟩
  rcases hpt with hn | hs
  · rw [hn] at ht'; cases ht'
  · exact hs.symm.trans ht'

theorem Move.boardGrows {s u : State} (h : Move s u) : BoardGrows s u := by
  cases h with
  | emit e => exact .of_eq rfl rfl
  | pinNew ident m hnew => exact ⟨Arena.grows_put_new Pin.GrowsTo.refl hnew _, .refl Trace.GrowsTo.refl _⟩
  | traceNew hnew => exact ⟨.refl Pin.GrowsTo.refl _, Arena.grows_put_new Trace.GrowsTo.refl hnew _⟩
  | adopts hp => exact (BoardGrows.refl s).setPin hp (Pin.growsTo_settings ..)
  | alone m v hp => exact (BoardGrows.refl s).setPin hp (Pin.growsTo_settings ..)
  | modeQuiet hp => exact (BoardGrows.refl s).setPin hp (Pin.growsTo_settings ..)
  | pull pull hp => exact (BoardGrows.refl s).setPin hp (Pin.growsTo_settings ..)
  | listener l hp => exact (BoardGrows.refl s).setPin hp ⟨rfl, rfl, List.prefix_append _ _, fun _ => id⟩
  | driven m v w hp _ ht => exact ((BoardGrows.refl s).setPin hp (Pin.growsTo_settings ..)).setTrace ht List.prefix_rfl
  | resolves pull w ht => exact (BoardGrows.refl s).setTrace ht List.prefix_rfl
  | joinsDriving w hp ht _ hpt =>
    exact (BoardGrows.join hp ht hpt).setTrace (Arena.find_put_same _ _ _) List.prefix_rfl
  | joins hp ht _ hpt => exact .join hp ht hpt

theorem boardGrows_respectsVic : RespectsVic BoardGrows where
  refl := .refl
  trans _ _ _ h h' := h.trans h'
  move h := h.boardGrows
  vic _ _ _ := .of_eq rfl rfl
  free _ := .of_eq rfl rfl

/-- Settles O57: no single update takes anything from a board. -/
theorem pinsTracesAndListenersOnlyGrow : Obligations.PinsTracesAndListenersOnlyGrow := fun i s _ h => by
  have hg := (exec_answers boardGrows_respectsVic.closedVic i s).next h
  refine ⟨fun p pin hp => ?pin, hg.traces⟩
  case pin =>
    obtain ⟨pin', hp', hgrow⟩ := hg.pins p pin hp
    exact ⟨pin', hp', hgrow.number, hgrow.name, hgrow.listeners, hgrow.trace⟩

/-! ## Boards whose listeners keep to pins and traces (R25, R108) -/

/-- The block and the parameters are the same. -/
abbrev SameVicEnv (s u : State) : Prop := u.vic = s.vic ∧ u.env = s.env

theorem sameVicEnv_respectsSubstrate : RespectsSubstrate SameVicEnv where
  refl _ := ⟨rfl, rfl⟩
  trans _ _ _ h h' := ⟨h'.1.trans h.1, h'.2.trans h.2⟩
  move h := ⟨h.sameRest.1, h.sameRest.2.1⟩
  env _ _ h := h.2

/-- Settles O58: the updates of the pin and trace operations leave the block alone, and on such a board nothing else runs. -/
theorem pinAndTraceOperationsLeaveTheBlockAlone : Obligations.PinAndTraceOperationsLeaveTheBlockAlone :=
  fun _ _ _ hs hi h => ((exec_answers_substrate sameVicEnv_respectsSubstrate hi hs).next h).1

/-! ## The state after reset (R27, R29, R240, R241) -/

theorem BlockPin.terminal_ge (b : BlockPin) : 4096 ≤ b.terminal := Nat.le_add_right _ _

theorem reset_pins_sorted : State.reset.pins.Sorted := by decide

/-- At reset every block pin is there, at its own terminal (log 1). -/
theorem reset_find_terminal (b : BlockPin) : State.reset.pins.find b.terminal = some b.resetPin :=
  Arena.find_of_mem reset_pins_sorted (List.mem_map.mpr ⟨b, b.mem_all, rfl⟩)

/-- At reset no pin is there at a handle below the terminals (R241, log 1). -/
theorem reset_has_below {k : Nat} (hk : k < 4096) : State.reset.pins.has k = false := by
  cases hf : State.reset.pins.find k with
  | none => rw [Arena.has, hf]; rfl
  | some pin =>
    obtain ⟨b, -, hb⟩ := List.mem_map.mp (Arena.mem_of_find hf)
    have hbk : b.terminal = k := congrArg Prod.fst hb
    have hge := b.terminal_ge
    omega

/-- At reset every block pin stands at its own terminal: no handle of the wiring has a pin yet. -/
theorem reset_blockHandle (b : BlockPin) : State.reset.blockHandle b = b.terminal := by
  have hlt : State.reset.env.wiring.handle b < 4096 :=
    (by decide : ∀ b ∈ BlockPin.all, State.reset.env.wiring.handle b < 4096) b b.mem_all
  rw [State.blockHandle, reset_has_below hlt]; rfl

theorem reset_find_blockHandle (b : BlockPin) : State.reset.pins.find (State.reset.blockHandle b) = some b.resetPin := by
  rw [reset_blockHandle, reset_find_terminal]

theorem reset_blockLevel (b : BlockPin) : State.reset.blockLevel b = b.resetLevel := by
  rw [State.blockLevel, reset_find_blockHandle]; rfl

theorem reset_blockMode (b : BlockPin) : State.reset.pinMode (State.reset.blockHandle b) = b.mode := by
  rw [State.pinMode, reset_find_blockHandle]; rfl

/-- At reset a change of a block pin pushes nothing: no pin is on a trace. -/
theorem reset_pushedWith (b : BlockPin) : State.reset.pushedWith (State.reset.blockHandle b) = [] := by
  rw [State.pushedWith, State.traceOf_eq (reset_find_blockHandle b)]; rfl

/-- Settles O50: the block's fields are read off the reset table, its pins off their terminals. -/
theorem resetTable : Obligations.ResetTable := by
  refine ⟨by decide, ⟨rfl, rfl, rfl, rfl, rfl, fun k => ?cache, rfl, rfl⟩, by decide, by decide, ?levels, ?modes, rfl,
    fun p => reset_has_below p.isLt⟩
  case cache => simp [State.reset, Vic.reset]
  case levels =>
    exact ⟨reset_blockLevel .ba, reset_blockLevel .aec, reset_blockLevel .irq, reset_blockLevel .phi,
      fun i => reset_blockLevel (.a i), fun i => reset_blockLevel (.d i)⟩
  case modes =>
    exact ⟨reset_blockMode .ba, reset_blockMode .aec, reset_blockMode .irq, reset_blockMode .phi,
      fun i => reset_blockMode (.a i), fun i => reset_blockMode (.d i)⟩

theorem reset_wired : State.reset.Wired := by decide

theorem reset_hasTerminals : State.reset.HasTerminals := fun b _ => by
  rw [Arena.has, reset_find_terminal]; rfl

theorem reset_coordOk : State.reset.vic.CoordOk := by decide

theorem reset_inv : State.reset.Inv where
  wired := reset_wired
  resolved := List.forall_mem_nil _
  terminals := reset_hasTerminals
  coord := reset_coordOk
  counters := by decide
  memory := State.reset_mem_wf

theorem reset_tickReady : State.reset.TickReady where
  ready :=
    { wired := reset_wired
      terminals := reset_hasTerminals
      fuel := by decide
      records := fun b _ => by rw [reset_pushedWith]; exact List.forall_mem_nil _ }
  coord := reset_coordOk
  cIndex := by decide

theorem reset_blockPinsOk : State.reset.BlockPinsOk := by
  refine ⟨?distinct, fun b _ => reset_blockMode b⟩
  case distinct =>
    rw [funext reset_blockHandle]
    decide

/-- Settles O51: there is no trace at reset, and the block's pins are at their terminals. -/
theorem resetHoldsTheInvariants : Obligations.ResetHoldsTheInvariants :=
  ⟨reset_inv, List.forall_mem_nil _, reset_tickReady, reset_blockPinsOk⟩

end Sys2Proof.Machine

/-! PROOFS. What a bus read gives: the memory oracle's unit, or the sample of the data pins (R41, R43, R50, R52). -/
namespace Sys2Proof.Machine

/-- With a memory oracle a read gives the oracle's unit (R52). -/
theorem State.busData_of_oracle {s : State} {m : Memory} (h : s.env.mem = some m) (a : BitVec 14) :
    s.busData a = m.read a := by
  rw [State.busData, h]

/-- Without an oracle a read gives what the data pins read as (R43). -/
theorem State.busData_of_no_oracle {s : State} (h : s.env.mem = none) (a : BitVec 14) :
    s.busData a = s.sampleData := by
  rw [State.busData, h]

/-- Data bit `i` is sampled from pin `D[i]` (R41). -/
theorem State.getLsbD_sampleData (s : State) (i : Fin 12) :
    s.sampleData.getLsbD i.val = signalBit (s.blockLevel (.d i)) := by
  rw [State.sampleData, BitVec.getLsbD_ofFnLE, dif_pos i.isLt]

/-- Only the level `1` reads as 1; `0` and, by D30, `Z` read as 0 (R41, R50). -/
theorem signalBit_eq_true_iff (l : Signal) : signalBit l = true ↔ l = .high := by
  cases l with
  | low => simp [signalBit]
  | high => simp [signalBit]
  | floating => simp [signalBit, Config.hw_floatReadsAs]

/-- Settles O42: a read is the oracle's unit, or bit by bit the sample of the data pins, where only the level `1` reads as 1. -/
theorem readsSampleTheDataPins : Obligations.ReadsSampleTheDataPins := by
  refine fun s a => ⟨fun m hm => State.busData_of_oracle hm a, fun hn i => ?pins⟩
  case pins => rw [State.busData_of_no_oracle hn, State.getLsbD_sampleData, signalBit_eq_true_iff]

end Sys2Proof.Machine

/-! PROOFS. The words of the four formats and the instructions that they name (30_encoding): each instruction is read back from
its own word, and a word that decodes is that word, up to command bits that its operation does not use. -/
namespace Sys2Proof

/-! ## The formats, row by row -/

/-- The rows of the opcode table are SLOT, ACC, GMODE and command rows (R60). -/
theorem Instr.format_cases (i : Instr) :
    (∃ ph c, i.slotOf = some (ph, c)) ∨ (∃ acc, i.accOf = some acc) ∨ (∃ sel, i.gmodeOf = some sel)
      ∨ i.format = .cmd ∨ i.format = .internal := by
  have h : (i.slotOf.isSome || i.accOf.isSome || i.gmodeOf.isSome || i.format == .cmd || i.format == .internal) = true := by
    cases i <;> rfl
  simpa [Option.isSome_iff_exists, or_assoc] using h

/-! ## Slot words (R66, R67) -/

theorem slotWord_eta (w : SlotWord) : slotWord (slotPhase w) (slotCycle w) = w := by revert w; decide

/-- A SLOT row is written as its phase and its cycle. -/
theorem encode_of_slotOf {i : Instr} {ph : Phase} {c : BitVec 7} (h : i.slotOf = some (ph, c)) :
    encode i = .slot (slotWord ph c) := by
  cases i <;> cases h <;> rfl

theorem decodeSlot_slotWord {i : Instr} {ph : Phase} {c : BitVec 7} (h : i.slotOf = some (ph, c)) :
    decodeSlot (slotWord ph c) = .ok i := by
  cases i <;> cases h <;> rfl

/-- The slot rows of a phase, cycles 1 to 65 in order (R67). -/
def slotRows : Phase → List Instr
  | .one => slotRows1
  | .two => slotRows2

/-- What decodes is the row of the word's cycle in the list of its phase. -/
theorem decodeSlot_row {w : SlotWord} {i : Instr} (h : decodeSlot w = .ok i) :
    (slotCycle w).toNat ≠ 0 ∧ (slotRows (slotPhase w))[(slotCycle w).toNat - 1]? = some i := by
  by_cases hpos : (slotCycle w).toNat = 0
  · simp [decodeSlot, hpos] at h
  · refine ⟨hpos, ?_⟩
    cases hp : slotPhase w <;> simp only [decodeSlot, hp, if_neg hpos] at h <;> split at h
    all_goals cases h
    all_goals assumption

/-- Row `k` of a phase is the row of cycle `k + 1`. -/
theorem map_slotOf_slotRows (ph : Phase) :
    (slotRows ph).map Instr.slotOf = (List.range 65).map (fun k => some (ph, BitVec.ofNat 7 (k + 1))) := by
  cases ph <;> rfl

theorem slotOf_of_getElem? {ph : Phase} {k : Nat} {i : Instr} (hk : (slotRows ph)[k]? = some i) :
    i.slotOf = some (ph, BitVec.ofNat 7 (k + 1)) := by
  have h := congrArg (·[k]?) (map_slotOf_slotRows ph)
  simp only [List.getElem?_map, hk, Option.map_some] at h
  obtain ⟨j, hj, hji⟩ := Option.map_eq_some_iff.mp h.symm
  obtain ⟨hlt, rfl⟩ := List.getElem?_eq_some_iff.mp hj
  rw [← hji, List.getElem_range]

/-- A slot word decodes to the row of its phase and cycle, and to nothing else. -/
theorem decodeSlot_eq_ok_iff {w : SlotWord} {i : Instr} :
    decodeSlot w = .ok i ↔ i.slotOf = some (slotPhase w, slotCycle w) := by
  refine ⟨fun h => ?_, fun h => slotWord_eta w ▸ decodeSlot_slotWord h⟩
  obtain ⟨hpos, hrow⟩ := decodeSlot_row h
  have hcycle : (slotCycle w).toNat - 1 + 1 = (slotCycle w).toNat := by omega
  simpa [hcycle] using slotOf_of_getElem? hrow

/-! ## Access-type words and selectors (R68, R69) -/

theorem accWord_eta (w : AccWord) : accWord (w.extractLsb' 3 3) (accSprite w) = w := by revert w; decide

/-- A word without a sprite number is accepted where that field is 0 (R71). -/
theorem accPlain_eq_ok {w : AccWord} {i j : Instr} (h : accPlain w i = .ok j) : accSprite w = 0 ∧ j = i := by
  unfold accPlain at h
  split at h
  next h0 => cases h; exact ⟨h0, rfl⟩
  · cases h

theorem decode_encode_of_accOf {i : Instr} {acc : AccessType} (h : i.accOf = some acc) : decode (encode i) = .ok i := by
  cases i <;> cases h
  case accSpritePointer n => simp [encode, decode, decodeAcc]
  case accSpriteData n => simp [encode, decode, decodeAcc]
  all_goals rfl

theorem encode_of_decodeAcc {w : AccWord} {i : Instr} (h : decodeAcc w = .ok i) : encode i = .acc w := by
  have hword : ∀ {tag : BitVec 3}, w.extractLsb' 3 3 = tag → accWord tag (accSprite w) = w := fun htag => by
    rw [← htag, accWord_eta]
  have hplain : ∀ {tag : BitVec 3} {j : Instr}, w.extractLsb' 3 3 = tag → encode j = .acc (accWord tag 0) →
      accPlain w j = .ok i → encode i = .acc w := fun htag henc hok => by
    obtain ⟨hn, rfl⟩ := accPlain_eq_ok hok
    rw [henc, ← hn, hword htag]
  unfold decodeAcc at h
  split at h
  case h_5 htag => cases h; exact congrArg Fetch.acc (hword htag)
  case h_6 htag => cases h; exact congrArg Fetch.acc (hword htag)
  case h_8 => cases h
  all_goals
    rename_i htag
    exact hplain htag rfl h

theorem decode_encode_of_gmodeOf {i : Instr} {sel : GModeWord} (h : i.gmodeOf = some sel) : decode (encode i) = .ok i := by
  cases i <;> cases h <;> rfl

theorem encode_decodeGMode (w : GModeWord) : encode (decodeGMode w) = .gmode w := by revert w; decide

/-! ## Command words (R64, R65) -/

theorem cmdWord_eta (w : CmdWord) : cmdWord (opOf w) (aOf w) (bOf w) = w := by
  apply BitVec.eq_of_getLsbD_eq
  intro i hi
  simp only [cmdWord, opOf, aOf, bOf, BitVec.getLsbD_append, BitVec.getLsbD_extractLsb']
  by_cases hb : i < 12
  · simp [hb, show i < 24 by omega]
  · by_cases ha : i < 24
    · simp [hb, ha, show i - 12 < 12 by omega, show 12 + (i - 12) = i by omega]
    · simp [ha, show i - 24 < 8 by omega, show 24 + (i - 24) = i by omega]

/-- The port of a command word (R71, log 12). -/
def portOf (op : BitVec 8) (w : CmdWord) : Fetch := if op = 0xF0 ∨ op = 0xF1 then .internal w else .cmd w

theorem isInternalOp_iff (w : CmdWord) : isInternalOp w = true ↔ opOf w = 0xF0 ∨ opOf w = 0xF1 := by
  simp [isInternalOp]

/-- A command row's own word is read back, at the port where it stands. -/
theorem decode_encode_command {i : Instr} (h : i.format = .cmd ∨ i.format = .internal) : decode (encode i) = .ok i := by
  cases i <;> simp [Instr.format] at h
  case updateLevel p => simp [encode, decode, decodeInternal, isInternalOp_cmdWord, decodeOperation]
  case resolveAndPush t v => simp [encode, decode, decodeInternal, isInternalOp_cmdWord, decodeOperation, Except.map]
  all_goals simp [encode, decode, decodeCmd, isInternalOp_cmdWord, decodeOperation, imm_cmdWord, Except.map]

/-- Settles O1: by the four formats of R60. -/
theorem decodeOfEncodeGivesTheInstruction : Obligations.DecodeOfEncodeGivesTheInstruction := fun i => by
  rcases i.format_cases with ⟨ph, c, hslot⟩ | ⟨acc, hacc⟩ | ⟨sel, hsel⟩ | hcmd
  · rw [encode_of_slotOf hslot]; exact decodeSlot_slotWord hslot
  · exact decode_encode_of_accOf hacc
  · exact decode_encode_of_gmodeOf hsel
  · exact decode_encode_command hcmd

/-! ## What a command word does not use (R64) -/

/-- An immediate that stands in the low bits of `b` is part of `b`. -/
theorem immB_low_and (n : Nat) (w : CmdWord) :
    immB (w.extractLsb' 0 n) &&& bOf w = immB (w.extractLsb' 0 n) := by
  apply BitVec.eq_of_getLsbD_eq
  intro i hi
  by_cases hin : i < n
  · simp [immB, bOf, hi, hin]
  · simp [immB, bOf, hin]

theorem cmdWord_and_cmdWord (op op' : BitVec 8) (a a' b b' : BitVec 12) :
    cmdWord op a b &&& cmdWord op' a' b' = cmdWord (op &&& op') (a &&& a') (b &&& b') :=
  BitVec.and_append.trans (congrArg _ BitVec.and_append)

/-- A word with the opcode of `w` and part of its operand bits is part of `w`. -/
theorem cmdWord_and {w : CmdWord} {a b : BitVec 12} (ha : a &&& aOf w = a) (hb : b &&& bOf w = b) :
    cmdWord (opOf w) a b &&& w = cmdWord (opOf w) a b := by
  calc cmdWord (opOf w) a b &&& w
      = cmdWord (opOf w) a b &&& cmdWord (opOf w) (aOf w) (bOf w) := by rw [cmdWord_eta]
    _ = cmdWord (opOf w &&& opOf w) (a &&& aOf w) (b &&& bOf w) := cmdWord_and_cmdWord ..
    _ = cmdWord (opOf w) a b := by rw [BitVec.and_self, ha, hb]

theorem encodeMode_decodeMode (x : BitVec 2) : encodeMode (decodeMode x) = x := by revert x; decide

theorem encodeSignal_of_decodeSignal {w : CmdWord} {x : BitVec 2} {v : Signal} (h : decodeSignal w x = .ok v) :
    encodeSignal v = x := by
  unfold decodeSignal at h
  split at h <;> cases h <;> rfl

/-- The instruction's own word stands at the port of `w`, with the opcode of `w` and part of its operand bits (R64). -/
def WordWithin (w : CmdWord) (i : Instr) : Prop :=
  ∃ a b, encode i = portOf (opOf w) (cmdWord (opOf w) a b) ∧ a &&& aOf w = a ∧ b &&& bOf w = b

theorem wordWithin_of_encode {w : CmdWord} {i : Instr} {op : Nat} {a b : BitVec 12} (hop : (opOf w).toNat = op)
    (henc : encode i = portOf (BitVec.ofNat 8 op) (cmdWord (BitVec.ofNat 8 op) a b)) (ha : a &&& aOf w = a)
    (hb : b &&& bOf w = b) : WordWithin w i := by
  refine ⟨a, b, ?_, ha, hb⟩
  rwa [← hop, BitVec.ofNat_toNat, BitVec.setWidth_eq] at henc

/-- An operation with a Signal has it in the low bits of `b` (R61, R65). -/
theorem decodeSignal_map_eq_ok {w : CmdWord} {f : Signal → Instr} {i : Instr}
    (h : (decodeSignal w (bLow w)).map f = .ok i) : ∃ v, f v = i ∧ encodeSignal v = w.extractLsb' 0 2 := by
  cases hv : decodeSignal w (bLow w) with
  | error e => rw [hv] at h; cases h
  | ok v =>
    rw [hv] at h; cases h
    exact ⟨v, rfl, encodeSignal_of_decodeSignal hv⟩

/-- A command word's opcode gives the opcode and the port of what it decodes to, its fields the operands (R64, R65). -/
theorem decodeOperation_wordWithin {w : CmdWord} {i : Instr} (h : decodeOperation w = .ok i) : WordWithin w i := by
  unfold decodeOperation at h
  split at h
  case h_32 => cases h
  case h_2 hop | h_16 hop | h_31 hop =>
    obtain ⟨v, rfl, hv⟩ := decodeSignal_map_eq_ok h
    exact wordWithin_of_encode hop rfl (BitVec.and_self) (by rw [hv, immB_low_and])
  all_goals
    rename_i hop
    cases h
    exact wordWithin_of_encode hop rfl (by simp) (by simp [encodeMode_decodeMode, bLow, immB_low_and])

/-- A command word contains the own word of its instruction, which decodes to that instruction again (R64). -/
theorem ownWord_of_decodeOperation {w : CmdWord} {i : Instr} (h : decodeOperation w = .ok i) :
    ∃ w', encode i = portOf (opOf w) w' ∧ opOf w' = opOf w ∧ w' &&& w = w' ∧ decode (portOf (opOf w) w') = .ok i := by
  obtain ⟨a, b, henc, ha, hb⟩ := decodeOperation_wordWithin h
  refine ⟨_, henc, opOf_cmdWord _ _ _, cmdWord_and ha hb, ?_⟩
  rw [← henc, decodeOfEncodeGivesTheInstruction i]

/-- Settles O2: a command word contains the own word of its instruction; the words of the other formats have no unused bits. -/
theorem eachWordHasOneMeaning : Obligations.EachWordHasOneMeaning := by
  refine ⟨fun w i h => ?slot, fun _ _ => encode_of_decodeAcc, encode_decodeGMode, fun w i h => ?cmd, fun w i h => ?internal⟩
  case slot => rw [encode_of_slotOf (decodeSlot_eq_ok_iff.mp h), slotWord_eta]
  case cmd =>
    unfold decodeCmd at h
    split at h
    · cases h
    next hport =>
      obtain ⟨w', hown⟩ := ownWord_of_decodeOperation h
      simp only [portOf, if_neg (mt (isInternalOp_iff w).mpr hport)] at hown
      exact ⟨w', hown⟩
  case internal =>
    unfold decodeInternal at h
    split at h
    next hport =>
      obtain ⟨w', hown⟩ := ownWord_of_decodeOperation h
      simp only [portOf, if_pos ((isInternalOp_iff w).mp hport)] at hown
      exact ⟨w', hown⟩
    · cases h

/-- Settles O4: thirteen fixed words, each decoded. -/
theorem wordsOfTheSpecDecode : Obligations.WordsOfTheSpecDecode := by
  unfold Obligations.WordsOfTheSpecDecode
  decide

end Sys2Proof

/-! PROOFS. Slot decode is the slot map (30_encoding R67, 42_scheduler_access R140 to R142), and BA and AEC are those of the
tables of 43_bus_ownership (R180, R181). -/
namespace Sys2Proof.Machine

/-! ## Slot decode (R67, R140, R141) -/

/-- Phase 1, over the 65 cycles of the map. -/
theorem slotDecode1_eq_specSlot {c : Nat} (h1 : 1 ≤ c) (h2 : c ≤ 65) (badLine : Bool) (dma : Fin 8 → Bool) :
    slotDecode1 c dma = specSlot .one c badLine dma := by
  interval_cases c <;> rfl

/-- Phase 2, over the 65 cycles of the map. -/
theorem slotDecode2_eq_specSlot {c : Nat} (h1 : 1 ≤ c) (h2 : c ≤ 65) (badLine : Bool) (dma : Fin 8 → Bool) :
    slotDecode2 c badLine dma = specSlot .two c badLine dma := by
  cases badLine <;> interval_cases c <;> rfl

theorem slotDecode_eq_specSlot {c : BitVec 7} (h1 : 1 ≤ c.toNat) (h2 : c.toNat ≤ 65) (ph : Phase) (badLine : Bool)
    (dma : Fin 8 → Bool) : slotDecode ph c badLine dma = .ok (specSlot ph c.toNat badLine dma) := by
  rw [slotDecode_ok h1 h2]
  cases ph with
  | one => exact congrArg Except.ok (slotDecode1_eq_specSlot h1 h2 badLine dma)
  | two => exact congrArg Except.ok (slotDecode2_eq_specSlot h1 h2 badLine dma)

/-- Settles O36: the slot map inside 1..65, code 8 outside. -/
theorem slotDecodeIsTheSlotMap : Obligations.SlotDecodeIsTheSlotMap := fun ph c badLine dma => by
  refine ⟨fun ⟨h1, h2⟩ => slotDecode_eq_specSlot h1 h2 ph badLine dma, fun h => ?outside⟩
  case outside => exact if_pos h

/-- The cycle of a SLOT row (R67). -/
theorem slotOf_cycle_range {i : Instr} {ph : Phase} {c : BitVec 7} (h : i.slotOf = some (ph, c)) :
    1 ≤ c.toNat ∧ c.toNat ≤ 65 := by
  cases i <;> cases h <;> decide

/-- A g-access stands only in the cycles 16 to 55 (R140). -/
theorem slotDecode1_bitmapChar {c : Nat} {dma : Fin 8 → Bool} (h : slotDecode1 c dma = .bitmapChar) : 16 ≤ c ∧ c ≤ 55 := by
  unfold slotDecode1 at h
  repeat' split at h
  all_goals cases h
  assumption

/-- No slot of phase 2 is a g-access (R141). -/
theorem slotDecode2_ne_bitmapChar (c : Nat) (badLine : Bool) (dma : Fin 8 → Bool) :
    slotDecode2 c badLine dma ≠ .bitmapChar := by
  unfold slotDecode2
  repeat' split
  all_goals simp

theorem specSlot_bitmapChar {ph : Phase} {c : Nat} {badLine : Bool} {dma : Fin 8 → Bool} (h1 : 1 ≤ c) (h2 : c ≤ 65)
    (h : specSlot ph c badLine dma = .bitmapChar) : 16 ≤ c ∧ c ≤ 55 := by
  cases ph with
  | one => exact slotDecode1_bitmapChar ((slotDecode1_eq_specSlot h1 h2 badLine dma).trans h)
  | two => exact absurd ((slotDecode2_eq_specSlot h1 h2 badLine dma).trans h) (slotDecode2_ne_bitmapChar c badLine dma)

/-! ## AEC (R181) -/

theorem aecLevel_ne_floating (ph : Phase) (acc : AccessType) : aecLevel ph acc ≠ .floating := by
  cases ph <;> cases acc <;> simp [aecLevel]

theorem aecLevel_eq_high_iff (ph : Phase) (acc : AccessType) :
    aecLevel ph acc = .high ↔ ph = .two ∧ acc ≠ .videoMatrixColor ∧ ∀ n, acc ≠ .spriteData n := by
  cases ph <;> cases acc <;> simp [aecLevel]

/-- In a slot of the map, the block leaves the bus exactly where the access is CpuOwned (R181). -/
theorem aecLevel_specSlot {c : Nat} (h1 : 1 ≤ c) (h2 : c ≤ 65) (ph : Phase) (badLine : Bool) (dma : Fin 8 → Bool) :
    aecLevel ph (specSlot ph c badLine dma) = .high ↔ specSlot ph c badLine dma = .cpuOwned := by
  cases ph with
  | one =>
    rw [← slotDecode1_eq_specSlot h1 h2]
    unfold slotDecode1
    repeat' split
    all_goals simp [aecLevel]
  | two =>
    rw [← slotDecode2_eq_specSlot h1 h2]
    unfold slotDecode2
    repeat' split
    all_goals simp [aecLevel]

/-! ## BA (R180) -/

theorem mem_spriteNumbers (n : Fin 8) : n ∈ spriteNumbers := by revert n; decide

theorem baLevel_ne_floating (ph : Phase) (c : BitVec 7) (badLine : Bool) (dma : Fin 8 → Bool) :
    baLevel ph c badLine dma ≠ .floating := by
  unfold baLevel; split <;> simp

/-- A half-cycle is in a sprite's window, of this line or of the next one, 130 half-cycles on (R180). -/
theorem inSpriteWindow_iff (n : Fin 8) (h : Int) :
    inSpriteWindow n h = true ↔ (spriteWindowLo n ≤ h ∧ h ≤ spriteWindowHi n)
      ∨ (spriteWindowLo n ≤ h - 130 ∧ h - 130 ≤ spriteWindowHi n) := by
  simp only [inSpriteWindow, Config.hw_cyclesPerLine, Bool.or_eq_true, Bool.and_eq_true, decide_eq_true_eq]
  norm_num

/-- The window of a sprite, by cycle and phase (R180, the table). -/
theorem inSpriteWindow_slotIndex {c : BitVec 7} (h1 : 1 ≤ c.toNat) (h2 : c.toNat ≤ 65) (n : Fin 8) (ph : Phase) :
    inSpriteWindow n (slotIndex ph c) = specBaWindow n ph c.toNat := by
  rw [Bool.eq_iff_iff, inSpriteWindow_iff]
  fin_cases n <;> cases ph <;>
    simp [spriteWindowLo, spriteWindowHi, slotIndex, Phase.number, specBaWindow, Config.hw] <;> omega

theorem inCWindow_iff (c : BitVec 7) (badLine : Bool) :
    inCWindow c badLine = true ↔ badLine = true ∧ 12 ≤ c.toNat ∧ c.toNat ≤ 54 := by
  simp [inCWindow, and_assoc]

theorem baLevel_eq_low_iff {c : BitVec 7} (h1 : 1 ≤ c.toNat) (h2 : c.toNat ≤ 65) (ph : Phase) (badLine : Bool)
    (dma : Fin 8 → Bool) : baLevel ph c badLine dma = .low ↔ SpecBaLow ph c.toNat badLine dma := by
  have hwin : (∃ n ∈ spriteNumbers, (dma n && inSpriteWindow n (slotIndex ph c)) = true)
      ↔ ∃ n, dma n = true ∧ specBaWindow n ph c.toNat = true := by
    simp [mem_spriteNumbers, inSpriteWindow_slotIndex h1 h2]
  unfold baLevel SpecBaLow
  rw [← hwin, ← inCWindow_iff, ← List.any_eq_true, ← Bool.or_eq_true]
  split <;> simp_all

end Sys2Proof.Machine

/-! PROOFS. The addresses of the accesses as numbers (R143 to R156, R161), what an access shows on the address pins and in its
record, and what it changes of the block (R144, R145, R155 to R160). -/
namespace Sys2Proof.Machine

/-! ## Addresses (R143 to R156, R161) -/

/-- An OR of a field above `k` with what is below `k` is the sum. -/
theorem toNat_shiftLeft_or {m k : Nat} {x : BitVec m} {y : BitVec 14} (hx : x.toNat * 2 ^ k < 2 ^ 14)
    (hy : y.toNat < 2 ^ k) : (x.setWidth 14 <<< k ||| y).toNat = x.toNat * 2 ^ k + y.toNat := by
  have hlt : x.toNat < 2 ^ 14 := lt_of_le_of_lt (Nat.le_mul_of_pos_right _ (Nat.two_pow_pos k)) hx
  rw [BitVec.toNat_or, BitVec.toNat_shiftLeft, BitVec.toNat_setWidth, Nat.mod_eq_of_lt hlt, Nat.shiftLeft_eq,
    Nat.mod_eq_of_lt hx, Nat.mul_comm, Nat.two_pow_add_eq_or_of_lt hy]

theorem idleAddr_toNat (r : Regs) : (idleAddr r).toNat = specIdleAddr r := by
  cases h : r.ecm <;> simp [idleAddr, specIdleAddr, h]

theorem refreshAddr_toNat (ref : BitVec 8) : (refreshAddr ref).toNat = 0x3F00 + ref.toNat := by
  have h : (0x3F#6 : BitVec 6).setWidth 14 <<< 8 = Config.hw.refreshBase := rfl
  rw [refreshAddr, ← h, toNat_shiftLeft_or] <;> simp <;> omega

theorem cAddr_toNat (r : Regs) (vc : BitVec 10) : (cAddr r vc).toNat = r.vm.toNat * 1024 + vc.toNat := by
  rw [cAddr, videoMatrixBase, toNat_shiftLeft_or] <;> simp <;> omega

theorem pAddr_toNat (r : Regs) (n : Fin 8) : (pAddr r n).toNat = r.vm.toNat * 1024 + 0x3F8 + n.val := by
  have h : (Config.hw.spritePtrOffset ||| BitVec.ofNat 14 n.val).toNat = 0x3F8 + n.val := by revert n; decide
  have hlow : (Config.hw.spritePtrOffset ||| BitVec.ofNat 14 n.val).toNat < 2 ^ 10 := by omega
  rw [pAddr, BitVec.or_assoc, videoMatrixBase, toNat_shiftLeft_or (by omega) hlow, h]
  omega

theorem sAddr_toNat (sprPtr : BitVec 8) (mc : BitVec 12) :
    (sAddr sprPtr mc).toNat = (sprPtr.toNat * 64 ||| mc.toNat) % 16384 := by
  have h := Nat.or_mod_two_pow (a := sprPtr.toNat * 64) (b := mc.toNat) (n := 14)
  simpa [sAddr, Nat.shiftLeft_eq] using h.symm

theorem textAddr_toNat (v : Vic) (byte : BitVec 8) :
    (textAddr v.regs.cb v.rc byte).toNat = specTextAddr v byte.toNat := by
  have hrow : (byte.setWidth 14 <<< 3 ||| v.rc.setWidth 14).toNat = byte.toNat * 8 + v.rc.toNat := by
    rw [toNat_shiftLeft_or] <;> simp <;> omega
  rw [textAddr, BitVec.or_assoc, toNat_shiftLeft_or, hrow, specTextAddr] <;> omega

theorem bmpAddr_toNat (v : Vic) (col : BitVec 10) :
    (bmpAddr v.regs.cb v.rc v.vcbase col).toNat = specBmpAddr v col.toNat := by
  have hrow : ((v.vcbase + col).setWidth 14 <<< 3 ||| v.rc.setWidth 14).toNat
      = (v.vcbase.toNat + col.toNat) % 1024 * 8 + v.rc.toNat := by
    rw [toNat_shiftLeft_or] <;> simp <;> omega
  have hbit : (v.regs.cb.extractLsb' 2 1).toNat = v.regs.cb.toNat / 4 := by
    generalize v.regs.cb = cb; revert cb; decide
  rw [bmpAddr, BitVec.or_assoc, toNat_shiftLeft_or, hrow, hbit, specBmpAddr] <;> omega

theorem toNat_and_addressMask (a : BitVec 14) : a.toNat &&& 0x3FFF = a.toNat := by
  rw [show 0x3FFF = 2 ^ 14 - 1 from rfl, Nat.and_two_pow_sub_one_eq_mod, Nat.mod_eq_of_lt a.isLt]

/-- The g-access address of a selector: `ecm` bit 2 masks, `bmm` bit 1 chooses the bitmap (R147 to R154). -/
theorem gAddr_toNat (sel : GModeWord) (v : Vic) (byte : BitVec 8) (col : BitVec 10) :
    (gAddr sel v byte col).toNat
      = specGAddr (decide (4 ≤ sel.toNat)) (decide (sel.toNat / 2 % 2 = 1)) v byte.toNat col.toNat := by
  rw [specGAddr, ← textAddr_toNat, ← bmpAddr_toNat]
  unfold gAddr
  split <;> simp [ecmMask, toNat_and_addressMask]

/-- The selector's bits are the three mode flags (R69). -/
theorem selector_bits (r : Regs) :
    decide (4 ≤ r.selector.toNat) = r.ecm ∧ decide (r.selector.toNat / 2 % 2 = 1) = r.bmm := by
  unfold Regs.selector
  cases r.ecm <;> cases r.bmm <;> cases r.mcm <;> decide

/-- The g-access cycles are those that have a column (R146). -/
theorem columnOf_eq_some {c : BitVec 7} (h1 : 16 ≤ c.toNat) (h2 : c.toNat ≤ 55) :
    ∃ k : Fin 40, columnOf c = some k ∧ k.val = c.toNat - 16 := ⟨_, dif_pos ⟨h1, h2⟩, rfl⟩

theorem Vic.cacheByte_eq (v : Vic) (k : Fin 40) : v.cacheByte k.val = (v.lineCache[k].setWidth 8).toNat := by
  simp [Vic.cacheByte]

/-- The address of a g-access in display state, in a cycle that has a column (R146 to R154). -/
theorem State.gModeAddr_toNat (s : State) (sel : GModeWord) {c : BitVec 7} (h1 : 16 ≤ c.toNat) (h2 : c.toNat ≤ 55) :
    (s.gModeAddr sel c).toNat = specGAddr (decide (4 ≤ sel.toNat)) (decide (sel.toNat / 2 % 2 = 1)) s.vic
      (s.vic.cacheByte (c.toNat - 16)) (c.toNat - 16) := by
  obtain ⟨k, hk, hval⟩ := columnOf_eq_some h1 h2
  have hcol : (BitVec.ofNat 10 k.val).toNat = k.val := by simp; omega
  rw [State.gModeAddr, gAddr_toNat, gOperands, hk, ← hval, Vic.cacheByte_eq, hcol]

theorem State.columnCtr_eq (s : State) {c : BitVec 7} (h1 : 16 ≤ c.toNat) (h2 : c.toNat ≤ 55) :
    s.columnCtr c = s.freeCtr := by
  obtain ⟨k, hk, -⟩ := columnOf_eq_some h1 h2
  simp [State.columnCtr, hk]

/-- Where the column of an access is named, or not needed (R146, log 11). -/
abbrev Vic.ColumnNamed (v : Vic) (c : BitVec 7) (acc : AccessType) : Prop :=
  acc ≠ .bitmapChar ∨ v.idle = true ∨ (16 ≤ c.toNat ∧ c.toNat ≤ 55)

theorem State.accessAddr_toNat {s : State} {c : BitVec 7} {acc : AccessType} (h : s.vic.ColumnNamed c acc) :
    (s.accessAddr c acc).map BitVec.toNat = specAddr s.vic c.toNat acc := by
  cases acc with
  | idle => exact congrArg some (idleAddr_toNat _)
  | refresh => exact congrArg some (refreshAddr_toNat _)
  | videoMatrixColor => exact congrArg some (cAddr_toNat _ _)
  | spritePointer n => exact congrArg some (pAddr_toNat _ _)
  | spriteData n => exact congrArg some (sAddr_toNat _ _)
  | cpuOwned => rfl
  | bitmapChar =>
    unfold State.accessAddr specAddr
    cases hidle : s.vic.idle with
    | true => exact congrArg some (idleAddr_toNat _)
    | false =>
      obtain ⟨h1, h2⟩ : 16 ≤ c.toNat ∧ c.toNat ≤ 55 := by simpa [Vic.ColumnNamed, hidle] using h
      have haddr := s.gModeAddr_toNat s.vic.regs.selector h1 h2
      rw [(selector_bits _).1, (selector_bits _).2] at haddr
      exact congrArg some haddr

theorem State.accessCtr_eq {s : State} {c : BitVec 7} {acc : AccessType} (h : s.vic.ColumnNamed c acc) :
    s.accessCtr c acc = s.freeCtr := by
  unfold State.accessCtr
  split
  next hb =>
    obtain ⟨rfl, hidle⟩ := hb
    obtain ⟨h1, h2⟩ : 16 ≤ c.toNat ∧ c.toNat ≤ 55 := by simpa [Vic.ColumnNamed, hidle] using h
    exact s.columnCtr_eq h1 h2
  · rfl

/-- Only CpuOwned has no address (R157). -/
theorem State.accessAddr_eq_none_iff (s : State) (c : BitVec 7) (acc : AccessType) :
    s.accessAddr c acc = none ↔ acc = .cpuOwned := by
  cases acc <;> simp [State.accessAddr]
  case bitmapChar => split <;> simp

/-! ## What an access shows and changes (R144, R145, R155 to R160) -/

/-- The selectors that render as blank, by number (R69, R152 to R154). -/
theorem blankMode_eq (sel : GModeWord) :
    blankMode sel = decide (sel.toNat = 5 ∨ sel.toNat = 6 ∨ sel.toNat = 7) := by revert sel; decide

theorem Vic.accessBlank_eq_specBlank (v : Vic) (acc : AccessType) : v.accessBlank acc = specBlank v acc := by
  have hblank : blankMode v.regs.selector = (v.regs.ecm && (v.regs.bmm || v.regs.mcm)) := by
    unfold Regs.selector
    cases v.regs.ecm <;> cases v.regs.bmm <;> cases v.regs.mcm <;> decide
  cases acc <;> simp [Vic.accessBlank, specBlank, hblank, Bool.and_assoc]

theorem showsAddress_of_addressLevel {u : State} {addr : Option (BitVec 14)}
    (h : ∀ i : Fin 14, u.blockLevel (.a i) = addressLevel addr i) : ShowsAddress u addr := by
  cases addr <;> exact h

theorem Vic.afterAccess_effect {v : Vic} {acc : AccessType} (hc : acc = .videoMatrixColor → v.vmli.toNat < 40)
    (data : BitVec 12) : AccessEffect v (v.afterAccess acc data) acc data := by
  cases acc with
  | idle => rfl
  | bitmapChar => rfl
  | cpuOwned => rfl
  | spritePointer n => rfl
  | refresh =>
    have href : v.ref - 1 = if v.ref = 0 then 255 else v.ref - 1 := by
      split
      next h0 => rw [h0]; rfl
      · rfl
    exact congrArg (fun ref => ({ v with ref := ref } : Vic)) href
  | videoMatrixColor =>
    unfold AccessEffect Vic.afterAccess
    rw [dif_pos (hc rfl)]
    exact ⟨fun k => (Vector.getElem_set (hc rfl) k.isLt).trans (if_congr eq_comm rfl rfl), rfl⟩
  | spriteData n =>
    refine ⟨fun k => ?_, rfl⟩
    rw [Vic.afterAccess_sprite]
    simp [eq_comm]

end Sys2Proof.Machine

/-! PROOFS. The SLOT, ACC and GMODE rows run by themselves (R66 to R69; logs 8 to 11): each makes the access that it names and no
other. -/
namespace Sys2Proof.Machine

/-- Settles O43: the row runs its slot, whose access is the one of the slot map. -/
theorem slotRowsRunTheirSlot : Obligations.SlotRowsRunTheirSlot := by
  intro s i ph c hrow hr acc hindex
  obtain ⟨h1, h2⟩ := slotOf_cycle_range hrow
  have hcol : s.vic.ColumnNamed c acc := by
    by_cases hb : acc = .bitmapChar
    · exact .inr (.inr (specSlot_bitmapChar h1 h2 hb))
    · exact .inl hb
  have hc : acc = .videoMatrixColor → s.vic.vmli.toNat < 40 := fun he => hindex.resolve_left (not_not.mpr he)
  obtain ⟨t, ht, hd⟩ := runSlot_done hr (slotDecode_eq_specSlot h1 h2 ph s.vic.badLine s.vic.dma) hc
  refine ⟨t, (exec_slot hrow s).trans (ht _ hr.fuel), s.accessAddr c acc, s.slotBa ph c, aecLevel ph acc, ?record,
    State.accessAddr_toNat hcol, baLevel_eq_low_iff h1 h2 ph _ _, baLevel_ne_floating _ _ _ _, aecLevel_specSlot h1 h2 ph _ _,
    aecLevel_ne_floating _ _, fun hb => ⟨hd.ba hb, hd.aec hb, showsAddress_of_addressLevel (hd.address hb)⟩, ?effect, hd.env,
    hd.pending, hd.freeCtr.trans (State.accessCtr_eq hcol), State.memAt_congr hd.env, hd.wiring, hd.levels⟩
  case record => rw [← Vic.accessBlank_eq_specBlank]; exact hd.out
  case effect => rw [hd.vic]; exact Vic.afterAccess_effect hc _

/-- Settles O45: the row runs its access at the coordinate where the state stands. -/
theorem accessRowsMakeTheirAccess : Obligations.AccessRowsMakeTheirAccess := by
  intro s i acc hrow hr hindex
  have hc : acc = .videoMatrixColor → s.vic.vmli.toNat < 40 := fun he => hindex.resolve_left (not_not.mpr he)
  obtain ⟨t, ht, ha, hctr⟩ := runAccess_accessed hr s.slot (s.slotBa s.vic.phase s.vic.cycle)
    (aecLevel s.vic.phase acc) acc hc
  refine ⟨t, (exec_acc hrow s).trans (ht _ hr.fuel), s.accessAddr s.vic.cycle acc, s.slotBa s.vic.phase s.vic.cycle,
    aecLevel s.vic.phase acc, ?record, fun h1 h2 => baLevel_eq_low_iff h1 h2 _ _ _, baLevel_ne_floating _ _ _ _,
    aecLevel_eq_high_iff .., aecLevel_ne_floating _ _, s.accessAddr_eq_none_iff _ _,
    fun hcol => ⟨State.accessAddr_toNat hcol, hctr.trans (State.accessCtr_eq hcol)⟩,
    fun hb => showsAddress_of_addressLevel (ha.address hb), ?effect, ha.env, ha.pending, State.memAt_congr ha.env, ha.wiring,
    ha.levels⟩
  case record => rw [← Vic.accessBlank_eq_specBlank]; exact ha.out
  case effect => rw [ha.vic]; exact Vic.afterAccess_effect hc _

/-- Settles O46: the row runs the g-access of its own selector at the coordinate where the state stands. -/
theorem graphicsModeRowsAddress : Obligations.GraphicsModeRowsAddress := by
  intro s i sel hrow hr
  obtain ⟨t, ht, ha, hctr⟩ := gModeAccess_accessed hr sel s.slot (s.slotBa s.vic.phase s.vic.cycle)
    (aecLevel s.vic.phase .bitmapChar)
  refine ⟨t, (exec_gmode hrow s).trans (ht _ hr.fuel), s.gModeAddr sel s.vic.cycle, s.slotBa s.vic.phase s.vic.cycle,
    aecLevel s.vic.phase .bitmapChar, ?record, fun h1 h2 => baLevel_eq_low_iff h1 h2 _ _ _, baLevel_ne_floating _ _ _ _, ?aec,
    aecLevel_ne_floating _ _, fun ⟨h1, h2⟩ => ⟨s.gModeAddr_toNat sel h1 h2, hctr.trans (s.columnCtr_eq h1 h2)⟩,
    fun hb => showsAddress_of_addressLevel (ha.address hb), ha.vic, ha.env, ha.pending, State.memAt_congr ha.env,
    ha.wiring, ha.levels⟩
  case record => rw [← blankMode_eq]; exact ha.out
  case aec => simp [aecLevel_eq_high_iff]

end Sys2Proof.Machine

/-! PROOFS. What the pin and trace operations do, branch by branch: creation, reads and listeners (R84, R90 to R92, R97,
R100), and the branches of the mode, pull and join operations (R86 to R89, R98). -/
namespace Sys2Proof.Machine

/-! ## Creation (R84, R97) -/

theorem opPinNew_existing {s : State} {p : Nat} (h : s.pins.has p = true) (m : Mode) :
    opPinNew p m s = violate (.noSuchPin p) := by
  rw [opPinNew, if_pos h]

theorem opPinNew_new {s : State} {p : Nat} (h : s.pins.has p = false) (m : Mode) :
    opPinNew p m s = .next (s.setPin p (Pin.fresh ((Arena.find s.env.wiring.idents p).getD ⟨p, ""⟩) m)) := by
  rw [opPinNew, if_neg (Bool.eq_false_iff.mp h)]

theorem opTraceNew_existing {s : State} {t : Nat} (h : s.traces.has t = true) :
    opTraceNew t s = violate (.noSuchTrace t) := by
  rw [opTraceNew, if_pos h]

theorem opTraceNew_new {s : State} {t : Nat} (h : s.traces.has t = false) :
    opTraceNew t s = .next (s.setTrace t Trace.fresh) := by
  rw [opTraceNew, if_neg (Bool.eq_false_iff.mp h)]

/-- Settles O6: a new pin is `Pin.fresh` under the identity that the wiring names, written at its handle alone. -/
theorem pinNewCreatesAPin : Obligations.PinNewCreatesAPin := by
  refine fun s p m => ⟨fun h => opPinNew_existing h m, fun h => ⟨_, opPinNew_new h m, ?fresh, ?others, rfl⟩⟩
  case fresh =>
    refine ⟨_, Arena.find_put_same _ _ _, rfl, rfl, rfl, rfl, rfl, fun ident hident => ?_⟩
    rw [hident]; exact ⟨rfl, rfl⟩
  case others => exact fun q hq => Arena.find_put_ne _ hq _

/-- Settles O12: a new trace is `Trace.fresh`, written at its handle alone. -/
theorem traceNewCreatesATrace : Obligations.TraceNewCreatesATrace := fun _ _ =>
  ⟨opTraceNew_existing, fun h => ⟨_, opTraceNew_new h, Arena.find_put_same _ _ _, fun _ hne => Arena.find_put_ne _ hne _, rfl⟩⟩

/-! ## Listeners and reads (R90 to R92, R100) -/

theorem opPinAddListener_found {s : State} {p : Nat} {pin : Pin} (hp : s.pins.find p = some pin) (l : Nat) :
    opPinAddListener p l s = .next (s.setPin p { pin with listeners := pin.listeners ++ [l] }) := by
  simp only [opPinAddListener, hp]

theorem opPinGetLevel_found {s : State} {p : Nat} {pin : Pin} (hp : s.pins.find p = some pin) :
    opPinGetLevel p s = .next (s.emit (.pinLevel p pin.level)) := by
  simp only [opPinGetLevel, hp]

theorem opPinGetMode_found {s : State} {p : Nat} {pin : Pin} (hp : s.pins.find p = some pin) :
    opPinGetMode p s = .next (s.emit (.pinMode p pin.mode)) := by
  simp only [opPinGetMode, hp]

theorem opTraceGetLevel_found {s : State} {t : Nat} {tr : Trace} (ht : s.traces.find t = some tr) :
    opTraceGetLevel t s = .next (s.emit (.traceLevel t tr.level)) := by
  simp only [opTraceGetLevel, ht]

/-- Settles O10: the pin's record is found and written back with one listener more. -/
theorem pinAddListenerAppends : Obligations.PinAddListenerAppends := fun _ _ l _ hp => opPinAddListener_found hp l.toNat

/-- Settles O11: each read finds its record and emits one event. -/
theorem getsArePure : Obligations.GetsArePure := fun _ =>
  ⟨fun _ _ hp => ⟨opPinGetLevel_found hp, opPinGetMode_found hp⟩, fun _ _ ht => opTraceGetLevel_found ht⟩

/-! ## PIN_TOGGLE and TRACE_TOGGLE at `Z` (R96, R107) -/

theorem opPinToggle_floating {s : State} {p : Nat} {pin : Pin} (hp : s.pins.find p = some pin)
    (hz : pin.level = .floating) (inv : Invoker) : opPinToggle inv p s = .next s := by
  simp only [opPinToggle, hp, hz]

theorem opTraceToggle_floating {s : State} {t : Nat} {tr : Trace} (ht : s.traces.find t = some tr)
    (hz : tr.level = .floating) (inv : Invoker) : opTraceToggle inv t s = .next s := by
  simp only [opTraceToggle, ht, hz]

/-! ## The branches of PIN_SET_MODE (R86) -/

section SetMode
variable {s : State} {p : Nat} {pin : Pin} (hp : s.pins.find p = some pin) (inv : Invoker)
include hp

theorem opPinSetMode_same : opPinSetMode inv p pin.mode s = .next s := by
  simp only [opPinSetMode, hp, if_true]

theorem opPinSetMode_alone {m : Mode} (hm : m ≠ pin.mode) (hpt : pin.trace = none) :
    opPinSetMode inv p m s = .next (s.setPin p { pin with mode := m }) := by
  simp only [opPinSetMode, hp, hm, hpt, if_false]

theorem opPinSetMode_driver {m : Mode} {h : Nat} (hm : m ≠ pin.mode) (hpt : pin.trace = some h) (ho : m.outCap = true) :
    opPinSetMode inv p m s
      = resolveAndPush inv h (pendingOf m pin.level) (s.setPin p { pin with mode := m }) := by
  simp only [opPinSetMode, hp, hm, hpt, ho, if_false, if_true]

/-- A pin that stops driving a level other than `Z` leaves its trace to the others. -/
theorem opPinSetMode_release {m : Mode} {h : Nat} (hm : m ≠ pin.mode) (hpt : pin.trace = some h) (ho : m.outCap = false)
    (hd : pin.mode.outCap = true ∧ pin.level ≠ .floating) :
    opPinSetMode inv p m s = resolveAndPush inv h .floating (s.setPin p { pin with mode := m }) := by
  simp only [opPinSetMode, hp, hm, hpt, ho, hd, if_false, Bool.false_eq_true, ne_eq, not_false_eq_true, and_self, if_true]

theorem opPinSetMode_quiet {m : Mode} {h : Nat} (hm : m ≠ pin.mode) (hpt : pin.trace = some h) (ho : m.outCap = false)
    (hd : pin.mode.outCap = false ∨ pin.level = .floating) :
    opPinSetMode inv p m s = updateLevel inv p (s.setPin p { pin with mode := m }) := by
  have hn : ¬(pin.mode.outCap = true ∧ pin.level ≠ .floating) := fun ⟨h1, h2⟩ =>
    hd.elim (fun h0 => by rw [h1] at h0; cases h0) h2
  simp only [opPinSetMode, hp, hm, hpt, ho, hn, if_false, Bool.false_eq_true]

/-! ## The pull operations (R87 to R89) -/

theorem opPinPull_alone (hpt : pin.trace = none) (pull : Pull) :
    opPinPull inv p pull s = .next (s.setPin p { pin with pull := pull }) := by
  simp only [opPinPull, hp, hpt]

theorem opPinPull_member {h : Nat} (hpt : pin.trace = some h) (pull : Pull) :
    opPinPull inv p pull s = updateLevel inv p (s.setPin p { pin with pull := pull }) := by
  simp only [opPinPull, hp, hpt]

/-! ## The branches of TRACE_ADD_PIN (R98) -/

theorem opTraceAddPin_member {t : Nat} {tr : Trace} (ht : s.traces.find t = some tr) (hm : p ∈ tr.members) :
    opTraceAddPin inv t p s = .next s := by
  simp only [opTraceAddPin, ht, hp, hm, if_true]

theorem opTraceAddPin_elsewhere {t h : Nat} {tr : Trace} (ht : s.traces.find t = some tr) (hm : p ∉ tr.members)
    (hpt : pin.trace = some h) (hne : h ≠ t) : opTraceAddPin inv t p s = violate (.pinAlreadyOnTrace p) := by
  simp only [opTraceAddPin, ht, hp, hm, hpt, hne, if_false]

theorem opTraceAddPin_free {t : Nat} {tr : Trace} (ht : s.traces.find t = some tr) (hm : p ∉ tr.members)
    (hpt : pin.trace = none) : opTraceAddPin inv t p s = joinTrace inv t p tr pin s := by
  unfold opTraceAddPin
  simp only [ht, hp, hm, if_false]
  split
  · rfl
  · rename_i h; rw [hpt] at h; cases h

end SetMode

/-- A pull operation of a pin (R87 to R89). -/
theorem exec_pinPulls {i : Instr} {p : Handle} {pull : Pull} (h : i.pinPulls = some (p, pull)) (s : State) :
    exec i s = opPinPull s.invoker p.toNat pull s := by
  cases i with
  | pinPullUp | pinPullDown | pinNoPull => cases h; rfl
  | _ => cases h

/-- A pull operation of a trace (R101 to R103). -/
theorem exec_tracePulls {i : Instr} {t : Handle} {pull : Pull} (h : i.tracePulls = some (t, pull)) (s : State) :
    exec i s = opTracePull s.invoker t.toNat pull s := by
  cases i with
  | tracePullUp | tracePullDown | traceNoPull => cases h; rfl
  | _ => cases h

end Sys2Proof.Machine

/-! PROOFS. The resolution rule (R80, R81, R110), and a trace on which all drivers agree (R112). -/
namespace Sys2Proof.Machine

theorem drives_eq_true_iff {s : State} {v : Signal} {p : Nat} : drives s v p = true ↔ ActivelyDrives s p v := by
  unfold drives
  cases hp : s.pins.find p with
  | none => simp [ActivelyDrives, hp]
  | some pin => simp [ActivelyDrives, hp]

theorem any_drives_eq_true_iff {s : State} {v : Signal} {ps : List Nat} :
    ps.any (drives s v) = true ↔ ∃ p ∈ ps, ActivelyDrives s p v := by
  simp only [List.any_eq_true, drives_eq_true_iff]

section
variable {s : State} {tr : Trace}

theorem resolve_of_high (h : ∃ p ∈ tr.members, ActivelyDrives s p .high) (w : Signal) : resolve s tr w = .high := by
  rw [resolve, if_pos (any_drives_eq_true_iff.mpr h)]

theorem resolve_of_low (hh : ¬∃ p ∈ tr.members, ActivelyDrives s p .high) (h : ∃ p ∈ tr.members, ActivelyDrives s p .low)
    (w : Signal) : resolve s tr w = .low := by
  rw [resolve, if_neg (any_drives_eq_true_iff.not.mpr hh), if_pos (any_drives_eq_true_iff.mpr h)]

theorem resolve_of_undriven (hh : ¬∃ p ∈ tr.members, ActivelyDrives s p .high)
    (hl : ¬∃ p ∈ tr.members, ActivelyDrives s p .low) (w : Signal) :
    resolve s tr w = if w ≠ .floating then w else tr.pull.level := by
  rw [resolve, if_neg (any_drives_eq_true_iff.not.mpr hh), if_neg (any_drives_eq_true_iff.not.mpr hl)]

/-- The order of the members plays no part (R110). -/
theorem resolve_perm {tr' : Trace} (hm : tr'.members.Perm tr.members) (hpull : tr'.pull = tr.pull) (w : Signal) :
    resolve s tr' w = resolve s tr w := by
  simp only [resolve, hm.any_eq, hpull]

end

/-- Settles O18: the three branches of `resolve`, whose two tests do not read the order of the members. -/
theorem resolutionRule : Obligations.ResolutionRule := by
  refine fun s tr w => ⟨fun h => resolve_of_high h w, fun hh h => resolve_of_low hh h w, fun hh hl => ?undriven,
    fun _ hm hpull => resolve_perm hm hpull w⟩
  case undriven =>
    rw [resolve_of_undriven hh hl w]
    refine ⟨fun hw => if_pos hw, ?_, ?_, ?_⟩ <;>
      · rintro rfl hpull
        rw [hpull]; rfl

/-- A level that one member drives and no other driver contradicts is the trace's; `Z` is, where there is no pull (R112). -/
theorem resolve_of_agreement {s : State} {tr : Trace} {p : Nat} {v : Signal} (hp : p ∈ tr.members)
    (hd : ActivelyDrives s p v) (hagree : ∀ q ∈ tr.members, ∀ w, w ≠ .floating → ActivelyDrives s q w → w = v)
    (hz : v = .floating → tr.pull = .none) : resolve s tr .floating = v := by
  have hnot : ∀ w, w ≠ .floating → w ≠ v → ¬∃ q ∈ tr.members, ActivelyDrives s q w :=
    fun w hw hne ⟨q, hq, hqd⟩ => hne (hagree q hq w hw hqd)
  cases v with
  | high => exact resolve_of_high ⟨p, hp, hd⟩ _
  | low => exact resolve_of_low (hnot .high (by simp) (by simp)) ⟨p, hp, hd⟩ _
  | floating =>
    rw [resolve_of_undriven (hnot .high (by simp) (by simp)) (hnot .low (by simp) (by simp)), hz rfl]
    rfl

/-- A level is adopted as it is, but for `Z` under a pull (R83). -/
theorem adopt_eq_self {pin : Pin} {v : Signal} (hz : v = .floating → pin.pull = .none) : adopt pin v = v := by
  cases v with
  | low => rfl
  | high => rfl
  | floating => rw [adopt, hz rfl]; rfl

end Sys2Proof.Machine

/-! PROOFS. The pin and trace operations where the listeners that they call only record: each completes, in the state of one
resolution and its push, or of one synchronised pin (R82, R83, R85 to R89, R93 to R99, R101 to R107). -/
namespace Sys2Proof.Machine

/-! ## One resolution, one synchronisation (R82, R83) -/

/-- On a wired board a pin that points at a trace is a member of it. -/
theorem State.Wired.mem_members {s : State} (hw : s.Wired) {p h : Nat} {pin : Pin} {tr : Trace}
    (hp : s.pins.find p = some pin) (hpt : pin.trace = some h) (ht : s.traces.find h = some tr) : p ∈ tr.members := by
  obtain ⟨tr', ht', hm⟩ := hw.traceOf hp hpt
  rw [ht] at ht'; cases ht'
  exact hm

theorem State.TraceRecords.members {s : State} {h : Nat} {tr : Trace} (hr : s.TraceRecords h)
    (ht : s.traces.find h = some tr) : s.Records tr.members := State.traceMembers_eq ht ▸ hr.2

theorem resolveAndPush_completes {s : State} (hw : s.Wired) {h : Nat} {tr : Trace} (hr : s.Records tr.members)
    (ht : s.traces.find h = some tr) (v : Signal) {n : Nat} (hn : 0 < n) :
    Completes (resolveAndPush (invoke n) h v s) fun u => Pushed s u h tr (resolve s tr v) := by
  obtain ⟨u, hu, hpushed, -, -⟩ := resolveAndPush_pushed hw hr ht v
  exact ⟨u, hu n hn, hpushed⟩

theorem updateLevel_completes {s : State} (hw : s.Wired) {p h : Nat} {pin : Pin} {tr : Trace} (hr : s.Records [p])
    (hp : s.pins.find p = some pin) (hpt : pin.trace = some h) (ht : s.traces.find h = some tr) {n : Nat} (hn : 0 < n) :
    Completes (updateLevel (invoke n) p s) fun u => PinPushed s u p h tr.level :=
  ⟨_, updateLevel_recording hw.1 hr hp hpt ht n hn,
    { pin := by rw [hp]; exact Arena.find_put_same _ _ _
      pins := fun _ hq => Arena.find_put_ne _ hq _
      traces := rfl
      out := rfl
      rest := ⟨rfl, rfl, rfl, rfl⟩ }⟩

/-- One resolution of a pin's trace after a change of the pin that leaves its trace and its listeners (R85, R86). -/
theorem changedPin_resolves {s : State} (hw : s.Wired) {p h : Nat} {pin : Pin} {tr : Trace}
    (hp : s.pins.find p = some pin) (pin' : Pin) (ht : s.traces.find h = some tr) (hr : s.TraceRecords h)
    (htrace : pin'.trace = pin.trace) (hl : pin'.listeners = pin.listeners) (v : Signal) :
    Completes (resolveAndPush s.invoker h v (s.setPin p pin')) fun u =>
      Pushed (s.setPin p pin') u h tr (resolve (s.setPin p pin') tr v) :=
  resolveAndPush_completes (hw.setPin hp htrace) ((hr.members ht).setPin hp hl) ht v hr.1

/-- The synchronisation of a pin after a change of it that leaves its trace and its listeners (R86 to R89). -/
theorem changedPin_synchronises {s : State} (hw : s.Wired) {p h : Nat} {pin : Pin} {tr : Trace}
    (hp : s.pins.find p = some pin) (pin' : Pin) (hpt : pin.trace = some h) (ht : s.traces.find h = some tr) (hr : s.PinRecords p)
    (htrace : pin'.trace = pin.trace) (hl : pin'.listeners = pin.listeners) :
    Completes (updateLevel s.invoker p (s.setPin p pin')) fun u => PinPushed (s.setPin p pin') u p h tr.level :=
  updateLevel_completes (hw.setPin hp htrace) (hr.2.setPin hp hl) (Arena.find_put_same _ _ _) (htrace.trans hpt) ht hr.1

/-! ## Pin operations -/

theorem Mode.outCap_eq_false_iff {m : Mode} : m.outCap = false ↔ m = .unconnected ∨ m = .input := by
  cases m <;> simp [Mode.outCap]

theorem Mode.outCap_eq_true_iff {m : Mode} : m.outCap = true ↔ m = .output ∨ m = .bidirectional := by
  cases m <;> simp [Mode.outCap]

/-- Settles O7: each is PIN_SET_LEVEL, by its three ways; on a trace, one resolution after the stored level. -/
theorem pinSetsAndTogglesDriveTheTrace : Obligations.PinSetsAndTogglesDriveTheTrace := by
  intro s i p v pin hp
  refine ⟨fun hi hz => ?toggleZ, fun hi => ⟨fun hm => ?inert, fun hm =>
    ⟨fun hpt => ?alone, fun h tr hw hr hpt ht => ?driving⟩⟩⟩
  case toggleZ => subst hi; exact opPinToggle_floating hp hz _
  case inert => rw [exec_setsPin hp hi, pinSetLevel_inert hp (Mode.outCap_eq_false_iff.mpr hm)]
  case alone => rw [exec_setsPin hp hi, pinSetLevel_alone hp (Mode.outCap_eq_true_iff.mpr hm) hpt]
  case driving =>
    rw [exec_setsPin hp hi, pinSetLevel_driving hp (Mode.outCap_eq_true_iff.mpr hm) hpt]
    exact changedPin_resolves hw hp { pin with level := v } ht hr rfl rfl _

theorem exec_pinSetMode (p : Handle) (m : Mode) (s : State) :
    exec (.pinSetMode p m) s = opPinSetMode s.invoker p.toNat m s := rfl

/-- Settles O8: each branch stores the mode, and is then one resolution, one synchronisation, or nothing. -/
theorem pinSetModeTakesOneOfFourBranches : Obligations.PinSetModeTakesOneOfFourBranches := by
  intro s p m pin hp
  simp only [exec_pinSetMode]
  refine ⟨fun hm => hm ▸ opPinSetMode_same hp _, fun hm hpt => opPinSetMode_alone hp _ hm hpt,
    fun h tr hw hr hm hpt ht => ⟨fun ho => ?driver, fun ho hpo hz => ?release, fun ho hq => ?quiet⟩⟩
  case driver =>
    rw [opPinSetMode_driver hp _ hm hpt ho]
    exact changedPin_resolves hw hp { pin with mode := m } ht hr rfl rfl _
  case release =>
    rw [opPinSetMode_release hp _ hm hpt ho ⟨hpo, hz⟩]
    exact changedPin_resolves hw hp { pin with mode := m } ht hr rfl rfl _
  case quiet =>
    have hrecords : s.Records [p.toNat] := (hr.members ht).subset (by simpa using hw.mem_members hp hpt ht)
    rw [opPinSetMode_quiet hp _ hm hpt ho hq]
    exact changedPin_synchronises hw hp { pin with mode := m } hpt ht ⟨hr.1, hrecords⟩ rfl rfl

/-- Settles O9: the pull is stored, and a pin on a trace is synchronised. -/
theorem pinPullsStoreAndSynchronise : Obligations.PinPullsStoreAndSynchronise := by
  intro s i p pull pin hi hp
  rw [exec_pinPulls hi]
  refine ⟨fun hpt => opPinPull_alone hp _ hpt pull, fun h tr hw hr hpt ht => ?member⟩
  case member =>
    rw [opPinPull_member hp _ hpt]
    exact changedPin_synchronises hw hp { pin with pull := pull } hpt ht hr rfl rfl

theorem updateLevel_traceless {s : State} {p : Nat} {pin : Pin} (hp : s.pins.find p = some pin) (hpt : pin.trace = none)
    (inv : Invoker) : updateLevel inv p s = .next s := by
  simp only [updateLevel, hp, hpt, ite_self]

theorem State.blind_of_not_inCap {s : State} {p : Nat} {pin : Pin} (hp : s.pins.find p = some pin)
    (hm : pin.mode.inCap = false) : s.blind p = true := by
  simp only [State.blind, hp, hm, Bool.not_false]

theorem exec_updateLevel (p : Handle) (s : State) : exec (.updateLevel p) s = updateLevel s.invoker p.toNat s := rfl

/-- Settles O16: a pin that does not observe, or is on no trace, is left alone; any other adopts its trace's level. -/
theorem updateLevelSynchronisesOnePin : Obligations.UpdateLevelSynchronisesOnePin := by
  intro s p pin hp
  rw [exec_updateLevel]
  refine ⟨fun hno => ?leftAlone, fun h tr hw hr _ hpt ht => updateLevel_completes hw hr.2 hp hpt ht hr.1⟩
  case leftAlone =>
    rcases hno with hm | hpt
    · exact updateLevel_blind (State.blind_of_not_inCap hp hm) _
    · exact updateLevel_traceless hp hpt _

/-! ## Trace operations -/

/-- Settles O14: each is one resolution of the trace. -/
theorem traceSetsAndTogglesResolveAndPush : Obligations.TraceSetsAndTogglesResolveAndPush := by
  intro s i t v tr ht
  refine ⟨fun hi hz => ?toggleZ, fun hw hr hi => ?resolves⟩
  case toggleZ => subst hi; exact opTraceToggle_floating ht hz _
  case resolves => rw [exec_setsTrace ht hi]; exact resolveAndPush_completes hw (hr.members ht) ht v hr.1

theorem opTracePull_found {s : State} {t : Nat} {tr : Trace} (ht : s.traces.find t = some tr) (inv : Invoker) (pull : Pull) :
    opTracePull inv t pull s = resolveAndPush inv t .floating (s.setTrace t { tr with pull := pull }) := by
  simp only [opTracePull, ht]

/-- Settles O15: the pull is stored, and the trace resolved with nothing pending. -/
theorem tracePullsResolve : Obligations.TracePullsResolve := by
  intro s i t pull tr hw hr hi ht
  rw [exec_tracePulls hi, opTracePull_found ht]
  have hwired : (s.setTrace t.toNat { tr with pull := pull }).Wired := hw.setTrace ht rfl
  have hrecords : s.Records tr.members := hr.members ht
  exact resolveAndPush_completes (tr := { tr with pull := pull }) hwired hrecords (Arena.find_put_same _ _ _) .floating hr.1

/-! ## A pin joins a trace (R98) -/

/-- The state in which pin `p` has joined trace `t`: the last member, and pointing at it. -/
def State.joined (s : State) (t p : Nat) (tr : Trace) (pin : Pin) : State :=
  (s.setTrace t { tr with members := tr.members ++ [p] }).setPin p { pin with trace := some t }

theorem State.joined_find_trace (s : State) (t p : Nat) (tr : Trace) (pin : Pin) :
    (s.joined t p tr pin).traces.find t = some { tr with members := tr.members ++ [p] } := Arena.find_put_same _ _ _

section Join
variable {s : State} {t p : Nat} {tr : Trace} {pin : Pin} (hp : s.pins.find p = some pin)
include hp

/-- Joining adds no listener. -/
theorem State.Records.joined {ps : List Nat} (hr : s.Records ps) : (s.joined t p tr pin).Records ps :=
  (hr.setTrace t { tr with members := tr.members ++ [p] }).setPin hp rfl

theorem joinTrace_driver_completes (hw : (s.joined t p tr pin).Wired) (hr : s.Records (tr.members ++ [p]))
    (ho : pin.mode.outCap = true) {n : Nat} (hn : 0 < n) : Completes (joinTrace (invoke n) t p tr pin s) fun u =>
      Pushed (s.joined t p tr pin) u t { tr with members := tr.members ++ [p] }
        (resolve (s.joined t p tr pin) { tr with members := tr.members ++ [p] } (pendingOf pin.mode pin.level)) := by
  rw [joinTrace, if_pos ho]
  exact resolveAndPush_completes hw (hr.joined hp) (s.joined_find_trace t p tr pin) _ hn

theorem joinTrace_observer_completes (hw : (s.joined t p tr pin).Wired) (hr : s.Records [p])
    (ho : pin.mode.outCap = false) {n : Nat} (hn : 0 < n) : Completes (joinTrace (invoke n) t p tr pin s) fun u =>
      PinPushed (s.joined t p tr pin) u p t tr.level := by
  rw [joinTrace, if_neg (Bool.eq_false_iff.mp ho)]
  exact updateLevel_completes hw (hr.joined hp) (Arena.find_put_same _ _ _) rfl (s.joined_find_trace t p tr pin) hn

end Join

theorem exec_traceAddPin (t p : Handle) (s : State) :
    exec (.traceAddPin t p) s = opTraceAddPin s.invoker t.toNat p.toNat s := rfl

/-- Settles O13: a member stays, a pin of another trace is refused, and a pin on no trace is no member and joins. -/
theorem traceAddPinJoins : Obligations.TraceAddPinJoins := by
  intro s t p tr pin ht hp
  rw [exec_traceAddPin]
  refine ⟨fun hm => opTraceAddPin_member hp _ ht hm, fun h hm hpt hne => opTraceAddPin_elsewhere hp _ ht hm hpt hne,
    fun hw hpr hpt => ?joins⟩
  case joins =>
    have hm : p.toNat ∉ tr.members := fun hm => by
      obtain ⟨pin', hp', hpt'⟩ := hw.member ht hm
      rw [hp] at hp'; cases hp'
      rw [hpt] at hpt'; cases hpt'
    obtain ⟨-, hwj⟩ := hw.join hp ht hm (.inl hpt)
    rw [opTraceAddPin_free hp _ ht hm hpt]
    refine ⟨fun ho hr => joinTrace_driver_completes hp hwj ?_ ho hpr.1,
      fun ho => joinTrace_observer_completes hp hwj hpr.2 ho hpr.1⟩
    exact List.forall_mem_append.mpr ⟨hr.members ht, hpr.2⟩

end Sys2Proof.Machine

/-! PROOFS. The round trip through a trace (R112): what a push hands out for one pin, and that a push into a settled trace
changes nothing. -/
namespace Sys2Proof.Machine

/-! ## The calls for one pin -/

theorem pinCalls_calledFor {s : State} {v : Signal} {p : Nat} {e : Event} (he : e ∈ pinCalls s v p) (q : Nat) :
    e.calledFor q = (p == q) := by
  unfold pinCalls at he
  split at he
  · split at he
    · obtain ⟨l, -, rfl⟩ := List.mem_map.mp he; rfl
    · cases he
  · cases he

theorem filter_pinCalls (s : State) (v : Signal) (p q : Nat) :
    (pinCalls s v p).filter (Event.calledFor q) = if p = q then pinCalls s v q else [] := by
  by_cases e : p = q
  · subst e
    rw [if_pos rfl, List.filter_eq_self]
    exact fun _ he => (pinCalls_calledFor he p).trans (beq_self_eq_true p)
  · rw [if_neg e, List.filter_eq_nil_iff]
    exact fun _ he => by rw [pinCalls_calledFor he, beq_false_of_ne e]; exact Bool.false_ne_true

/-- Of the calls that a push makes, those for one member are the calls of that member. -/
theorem filter_flatMap_pinCalls (s : State) (v : Signal) (q : Nat) : ∀ {ps : List Nat}, ps.Nodup →
    (ps.flatMap (pinCalls s v)).filter (Event.calledFor q) = if q ∈ ps then pinCalls s v q else []
  | [], _ => rfl
  | p :: ps, hnd => by
    obtain ⟨hp, hps⟩ := List.nodup_cons.mp hnd
    rw [List.flatMap_cons, List.filter_append, filter_pinCalls, filter_flatMap_pinCalls s v q hps]
    by_cases e : p = q
    · subst e; simp [hp]
    · simp [e, Ne.symm e]

/-- An observer that takes a level as it is: its listeners are called once each if that is a change, else not at all. -/
theorem pinCalls_observer {s : State} {q : Nat} {pin : Pin} {v : Signal} (hq : s.pins.find q = some pin)
    (hm : pin.mode.inCap = true) (ha : adopt pin v = v) :
    pinCalls s v q = if pin.level = v then [] else pin.listeners.map fun l => .invoked l q v := by
  simp only [pinCalls, hq, hm, ha, true_and, ne_eq, ite_not, eq_comm (a := v)]

/-! ## A settled trace -/

section Settled
variable {s : State} (hw : s.Wired) {h : Nat} {tr : Trace} (ht : s.traces.find h = some tr)
include hw ht

theorem updateLevel_of_synced (inv : Invoker) {p : Nat} (hp : p ∈ tr.members) (hs : s.pinSynced p tr.level = true) :
    updateLevel inv p s = .next s := by
  obtain ⟨pin, hpin, hpt⟩ := hw.member ht hp
  simp only [State.pinSynced, hpin, Bool.or_eq_true, Bool.not_eq_true', beq_iff_eq] at hs
  rcases hs with hm | hl
  · exact updateLevel_blind (State.blind_of_not_inCap hpin hm) inv
  · simp only [updateLevel, hpin, hpt, ht, ← hl, if_true, ite_self]

theorem updateAll_of_synced (inv : Invoker) : ∀ ps : List Nat,
    (∀ p ∈ ps, p ∈ tr.members ∧ s.pinSynced p tr.level = true) → updateAll inv ps s = .next s
  | [], _ => rfl
  | p :: ps, h => by
    obtain ⟨⟨hp, hs⟩, hps⟩ := List.forall_mem_cons.mp h
    rw [updateAll, updateLevel_of_synced hw ht inv hp hs, andThen_next]
    exact updateAll_of_synced inv ps hps

/-- A resolution that gives the level that the trace has, and that its observers have adopted, changes nothing (R82, R83). -/
theorem resolveAndPush_of_settled (inv : Invoker) {v : Signal} (hv : resolve s tr v = tr.level)
    (hs : ∀ p ∈ tr.members, s.pinSynced p tr.level = true) : resolveAndPush inv h v s = .next s := by
  have hset : s.setTrace h { tr with level := resolve s tr v } = s := by
    rw [hv, State.setTrace, Arena.put_find hw.2.1 ht]
  simp only [resolveAndPush, ht, hset]
  exact updateAll_of_synced hw ht inv tr.members fun p hp => ⟨hp, hs p hp⟩

end Settled

theorem adopt_pushedPin (h : Nat) (v w : Signal) (pin : Pin) : adopt (pushedPin h v pin) w = adopt pin w := by
  cases w <;> simp [adopt]

section Pushed
variable {s u : State} {h : Nat} {tr : Trace} {lvl : Signal} (hu : Pushed s u h tr lvl)
include hu

/-- After a push every pin on the trace has adopted the level. -/
theorem Pushed.pinSynced {p : Nat} {pin : Pin} (hp : s.pins.find p = some pin) (hpt : pin.trace = some h) :
    u.pinSynced p lvl = true := by
  simp only [State.pinSynced, hu.pins, hp, Option.map_some, pushedPin_mode, adopt_pushedPin, Bool.or_eq_true,
    Bool.not_eq_true', beq_iff_eq]
  by_cases hm : pin.mode.inCap = true
  · exact .inr (by rw [pushedPin, if_pos ⟨hpt, hm⟩])
  · exact .inl (by simpa using hm)

/-- A push changes no driver: an Output pin does not observe. -/
theorem Pushed.drives (w : Signal) (p : Nat) : drives u w p = drives s w p := by
  unfold Machine.drives
  rw [hu.pins]
  cases s.pins.find p with
  | none => rfl
  | some pin =>
    by_cases ho : pin.mode = .output
    · simp only [Option.map_some, pushedPin_of_not_inCap (show pin.mode.inCap = false by rw [ho]; rfl)]
    · simp only [Option.map_some, pushedPin_mode, beq_false_of_ne ho, Bool.false_and]

theorem Pushed.resolve (w l : Signal) : resolve u { tr with level := l } w = resolve s tr w :=
  resolve_congr rfl rfl (fun p _ v _ => hu.drives v p) w

/-- The same resolution after a push of what it gave changes nothing. -/
theorem Pushed.again {w : Signal} (hl : lvl = Machine.resolve s tr w) (hw : s.Wired) (ht : s.traces.find h = some tr)
    (huw : u.Wired) (inv : Invoker) : resolveAndPush inv h w u = .next u :=
  resolveAndPush_of_settled huw hu.trace inv ((hu.resolve w lvl).trans hl.symm) fun _ hp => by
    obtain ⟨pin, hpin, hpt⟩ := hw.member ht hp
    exact hu.pinSynced hpin hpt

end Pushed

/-- An Output pin on a trace drives it with nothing pending (R85). -/
theorem pinSetLevel_output {s : State} {p h : Nat} {pin : Pin} (hp : s.pins.find p = some pin) (hm : pin.mode = .output)
    (hpt : pin.trace = some h) (inv : Invoker) (v : Signal) :
    pinSetLevel inv p v s = resolveAndPush inv h .floating (s.setPin p { pin with level := v }) := by
  have hpending : pendingOf pin.mode v = .floating := by rw [hm]; rfl
  rw [pinSetLevel_driving hp (by rw [hm]; rfl) hpt, hpending]

/-- Writing the level that an Output pin of a settled trace has changes nothing. -/
theorem pinSetLevel_output_same {s : State} (hw : s.Wired) {p h : Nat} {pin : Pin} (hp : s.pins.find p = some pin)
    (hm : pin.mode = .output) (hpt : pin.trace = some h) {inv : Invoker}
    (hs : resolveAndPush inv h .floating s = .next s) : pinSetLevel inv p pin.level s = .next s := by
  have hset : s.setPin p { pin with level := pin.level } = s := by rw [State.setPin, Arena.put_find hw.1 hp]
  rw [pinSetLevel_output hp hm hpt, hset, hs]

/-- The drivers agree on `v` once the pin that is written drives it too. -/
theorem agreement_setPin {s : State} {p : Nat} {pin : Pin} {v : Signal} {ps : List Nat}
    (h : ∀ r ∈ ps, r ≠ p → ∀ w, w ≠ .floating → ActivelyDrives s r w → w = v) :
    ∀ r ∈ ps, ∀ w, w ≠ .floating → ActivelyDrives (s.setPin p { pin with level := v }) r w → w = v := by
  intro r hr w hw hd
  by_cases e : r = p
  · subst e
    obtain ⟨pin', hp', -, hl⟩ := hd
    rw [State.setPin_pins, Arena.find_put_same] at hp'; cases hp'
    exact hl.symm
  · rw [ActivelyDrives, State.setPin_pins, Arena.find_put_ne _ e] at hd
    exact h r hr e w hw hd

/-- Settles O19: the write is one resolution, which the drivers' agreement makes `v`; the observer adopts it as it is; and the
trace it leaves is settled. -/
theorem writeIsReadBackThroughTheTrace : Obligations.WriteIsReadBackThroughTheTrace := by
  intro s p q h tr pin qpin v hw hr ht hp hm hpt hq hqm hqt hagree hz
  let s₁ := s.setPin p.toNat { pin with level := v }
  have hw₁ : s₁.Wired := hw.setPin hp rfl
  have hp₁ : s₁.pins.find p.toNat = some { pin with level := v } := Arena.find_put_same _ _ _
  have hq₁ : s₁.pins.find q.toNat = some qpin := by
    refine (Arena.find_put_ne _ (fun e => ?_) _).trans hq
    rw [e, hp] at hq; cases hq
    rw [hm] at hqm; cases hqm
  have hv : resolve s₁ tr .floating = v :=
    resolve_of_agreement (hw.mem_members hp hpt ht) ⟨_, hp₁, hm, rfl⟩ (agreement_setPin hagree) fun e => (hz e).1
  have ha : adopt qpin v = v := adopt_eq_self fun e => (hz e).2
  obtain ⟨u, hu, hpushed, hsp, hst⟩ := resolveAndPush_pushed hw₁ (h := h) ((hr.members ht).setPin hp rfl) ht .floating
  rw [hv] at hpushed
  have huw : u.Wired := (hpushed.wiring ht).wired hw₁ hsp hst
  refine ⟨u, ?completes, ?trace, ?observer, ⟨_, hpushed.out, ?calls⟩, ?again⟩
  case completes =>
    rw [exec_setsPin hp (.inl rfl), pinSetLevel_output hp hm hpt]
    exact hu _ hr.1
  case trace => rw [State.traceLevel, hpushed.trace]
  case observer =>
    rw [State.pinLevel, hpushed.pins, hq₁, Option.map_some, pushedPin, if_pos ⟨hqt, by rw [hqm]; rfl⟩]
    exact ha
  case calls =>
    rw [List.filter_reverse, List.reverse_reverse, filter_flatMap_pinCalls _ _ _ (hw.nodup ht),
      if_pos (hw.mem_members hq hqt ht), pinCalls_observer hq₁ (by rw [hqm]; rfl) ha]
  case again =>
    have hpu : u.pins.find p.toNat = some { pin with level := v } := by
      rw [hpushed.pins, hp₁, Option.map_some, pushedPin_of_not_inCap (by rw [hm]; rfl)]
    rw [exec_setsPin hpu (.inl rfl)]
    exact pinSetLevel_output_same huw hpu hm hpt (hpushed.again hv.symm hw₁ ht huw _)

end Sys2Proof.Machine

/-! PROOFS. A push that calls a listener: its first operation runs inside the push (R108, R225), and with no invocation left
the stimulus hangs (R109, R222). -/
namespace Sys2Proof.Machine

theorem runCommandWord_of_decode {w : CmdWord} {j : Instr} (h : decodeCmd w = .ok j) (inv : Invoker) (s : State) :
    runCommandWord inv w s = runCommand inv j s := by rw [runCommandWord, h]

theorem runCommandWord_of_illegal {w : CmdWord} {e : Violation} (h : decodeCmd w = .error e) (inv : Invoker) (s : State) :
    runCommandWord inv w s = violate e := by rw [runCommandWord, h]

/-- Settles O21: the push runs the listener's program in the state of the call, and that program's first word is an operation
of the interface or ends the stimulus. -/
theorem listenerOperationsRunInsideThePush : Obligations.ListenerOperationsRunInsideThePush := by
  refine ⟨fun s i t p l n tr pin v u w k hres hone hb hne => ?inside, fun s j hj => (exec_command hj s).symm,
    fun _ _ => decodeCmd_atInterface⟩
  case inside =>
    have hrun : exec i s = andThen (runCommandWord (invoke n) w (u.calling t p l tr pin v)) (runProg (invoke n) p k) := by
      rw [hres.exec, hres.invoker, hone.push v hne, hb]; rfl
    refine ⟨fun j hj => ?_, fun e he => ?_⟩
    · rw [hrun, runCommandWord_of_decode hj]
    · rw [hrun, runCommandWord_of_illegal he]; rfl

/-- With no invocation left the first call of a listener is the last thing that happens (R109). -/
theorem invokeAll_no_fuel {ls : List Nat} (h : ls ≠ []) (p : Nat) (s : State) :
    invokeAll (invoke 0) p ls s = .fault .hang := by
  cases ls with
  | nil => exact absurd rfl h
  | cons l ls => rfl

/-- Settles O22: the push calls the observer's listeners, of which there is one, with no invocation left. -/
theorem fuelExhaustionIsAHang : Obligations.FuelExhaustionIsAHang := by
  intro s i t p tr pin v u hres hfuel hobs hl hne
  rw [hres.exec, (hobs.push _ v).2 hne, State.invoker, hfuel]
  exact invokeAll_no_fuel hl p _

end Sys2Proof.Machine

/-! PROOFS. The clock model (41_clock_model R121, R122): VIC_TICK completes from every ready state, moves the coordinate on by one
half-cycle and leaves the board ready, so any number of steps completes. -/
namespace Sys2Proof.Machine

/-! ## The coordinate (R122) -/

theorem Vic.atLineEnd_eq_true_iff {v : Vic} : v.atLineEnd = true ↔ v.EndsLine := by
  simp [Vic.atLineEnd, Vic.EndsLine]

/-- Past the end of a line (R122). -/
theorem Vic.advance_of_endsLine {v : Vic} (h : v.EndsLine) :
    v.advance = { v with phase := .one, cycle := 1, raster := nextRaster v.raster } := by
  obtain ⟨hp, hc⟩ := h
  unfold Vic.advance
  rw [hp]
  exact if_pos hc

/-- From phase 2 within a line (R122). -/
theorem Vic.advance_of_two {v : Vic} (hp : v.phase = .two) (hc : v.cycle.toNat ≠ 65) :
    v.advance = { v with phase := .one, cycle := v.cycle + 1 } := by
  unfold Vic.advance
  rw [hp]
  exact if_neg hc

theorem nextRaster_toNat {r : BitVec 9} (h : r.toNat ≤ 262) :
    (nextRaster r).toNat = if r.toNat = 262 then 0 else r.toNat + 1 := by
  unfold nextRaster
  rw [Config.hw_linesPerFrame]
  split
  · rfl
  · rw [BitVec.toNat_add]; simp; omega

theorem cycle_succ_toNat {c : BitVec 7} (h : c.toNat ≤ 65) : (c + 1).toNat = c.toNat + 1 := by
  rw [BitVec.toNat_add]; simp; omega

/-- One half-cycle on in the frame, whose last one is followed by the first (R122). -/
theorem Vic.advance_frameIndex {v : Vic} (h : v.CoordOk) : v.advance.frameIndex = (v.frameIndex + 1) % 34190 := by
  obtain ⟨h1, h2, h3⟩ := h
  unfold Vic.frameIndex
  cases hp : v.phase with
  | one => rw [Vic.advance_of_one hp]; simp only [Phase.number]; omega
  | two =>
    by_cases hc : v.cycle.toNat = 65
    · rw [Vic.advance_of_endsLine ⟨hp, hc⟩, nextRaster_toNat h3]
      simp only [Phase.number, hc]
      split <;> simp <;> omega
    · rw [Vic.advance_of_two hp hc, cycle_succ_toNat h2]; simp only [Phase.number]; omega

theorem Vic.frameIndex_lt {v : Vic} (h : v.CoordOk) : v.frameIndex < 34190 := by
  obtain ⟨h1, h2, h3⟩ := h
  unfold Vic.frameIndex
  cases v.phase <;> simp only [Phase.number] <;> omega

theorem Vic.frameIndex_congr {v w : Vic} (hp : w.phase = v.phase) (hc : w.cycle = v.cycle) (hr : w.raster = v.raster) :
    w.frameIndex = v.frameIndex := by rw [Vic.frameIndex, hp, hc, hr, Vic.frameIndex]

/-! ## One step -/

theorem exec_vicTick (s : State) : exec .vicTick s = vicStep (invoke s.env.fuel) s := rfl

/-- VIC_TICK completes from a ready state, and what holds of every state that a step leaves holds after it. -/
theorem tick_completes {s : State} (h : s.TickReady) {P : State → Prop} (hP : ∀ t acc, TickDone s t acc → P t) :
    Completes (exec .vicTick s) P := by
  obtain ⟨t, acc, ht, hd⟩ := vicStep_done h
  exact ⟨t, (exec_vicTick s).trans ht, hP t acc hd⟩

section Done
variable {s t : State} {acc : AccessType} (hd : TickDone s t acc)
include hd

/-- The access of a step moves no coordinate (R160). -/
theorem TickDone.coordinate :
    t.vic.phase = s.vic.advance.phase ∧ t.vic.cycle = s.vic.advance.cycle ∧ t.vic.raster = s.vic.advance.raster := by
  rw [hd.vic]; simp

theorem TickDone.frameIndex (hk : s.vic.CoordOk) : t.vic.frameIndex = (s.vic.frameIndex + 1) % 34190 := by
  obtain ⟨hp, hc, hr⟩ := hd.coordinate
  rw [Vic.frameIndex_congr hp hc hr, Vic.advance_frameIndex hk]

theorem TickDone.coordOk (hk : s.vic.CoordOk) : t.vic.CoordOk := by
  obtain ⟨-, hc, hr⟩ := hd.coordinate
  rw [Vic.CoordOk, hc, hr]
  exact VicMove.coord (.advance s.vic) hk

end Done

/-! ## The cache index (R145 corner case 2, R194) -/

/-- In a cycle with a c-access slot (R141). -/
theorem cSlotsDone_of_cSlot {c : BitVec 7} (h15 : 15 ≤ c.toNat) (h54 : c.toNat ≤ 54) :
    cSlotsDone .one c = c.toNat - 15 ∧ cSlotsDone .two c = c.toNat - 14 := by
  unfold cSlotsDone
  rw [if_neg (by omega), if_neg (by omega), if_pos h54, if_neg (by omega), if_neg (by omega), if_pos h54]
  exact ⟨rfl, rfl⟩

/-- An advance loses none of the c-access slots gone by, unless it enters (14, phase 1). -/
theorem cSlotsDone_advance {v : Vic} (hk : v.CoordOk) (h14 : ¬v.advance.InSlot1 14) :
    cSlotsDone v.phase v.cycle ≤ cSlotsDone v.advance.phase v.advance.cycle := by
  obtain ⟨h1, h2, -⟩ := hk
  unfold cSlotsDone
  cases hp : v.phase with
  | one => rw [Vic.advance_of_one hp]; dsimp only; split_ifs <;> omega
  | two =>
    by_cases hc : v.cycle.toNat = 65
    · rw [Vic.advance_of_endsLine ⟨hp, hc⟩]; simp [hc]
    · rw [Vic.advance_of_two hp hc] at h14 ⊢
      simp only [Vic.InSlot1, cycle_succ_toNat h2, true_and] at h14 ⊢
      split_ifs <;> omega

/-- A c-access comes from phase 1 of its own cycle, one of 15 to 54 (R141). -/
theorem Vic.one_of_videoMatrix {v : Vic} (hk : v.CoordOk)
    (h : slotDecode v.ticked.phase v.ticked.cycle v.ticked.badLine v.ticked.dma = .ok .videoMatrixColor) :
    v.phase = .one ∧ 15 ≤ v.cycle.toNat ∧ v.cycle.toNat ≤ 54 := by
  obtain ⟨h1, h2⟩ := Vic.advance_cycle_range hk
  rw [Vic.ticked_phase, Vic.ticked_cycle, slotDecode_ok h1 h2] at h
  have hacc := Except.ok.inj h
  cases hp : v.phase with
  | one =>
    rw [Vic.advance_of_one hp] at hacc
    exact ⟨rfl, slotDecode2_videoMatrix hacc⟩
  | two =>
    rw [Vic.advance_of_two_phase hp] at hacc
    exact absurd hacc (slotDecode1_ne _ _)

theorem Vic.cacheStore_vmli_le (v : Vic) (i : Fin 40) (d : BitVec 12) :
    (v.cacheStore i d).vmli.toNat ≤ v.vmli.toNat + 1 := by
  unfold Vic.cacheStore
  cases v.idle with
  | true => exact Nat.le_succ _
  | false => exact (BitVec.toNat_add v.vmli 1).trans_le (Nat.mod_le _ _)

/-- Only a c-access moves the index, by at most one (R145). -/
theorem Vic.afterAccess_vmli_le (v : Vic) (acc : AccessType) (d : BitVec 12) :
    (v.afterAccess acc d).vmli.toNat ≤ v.vmli.toNat + if acc = .videoMatrixColor then 1 else 0 := by
  by_cases h : acc = .videoMatrixColor
  · subst h
    rw [if_pos rfl]
    unfold Vic.afterAccess
    dsimp only
    split
    · exact Vic.cacheStore_vmli_le v _ d
    · exact Nat.le_succ _
  · rw [if_neg h, (Vic.afterAccess_counter v h d).2.1]; rfl

/-- A step makes at most one c-access, in a slot for one; and the index is 0 at (14, phase 1) (R191, R194). -/
theorem TickDone.cIndexOk {s t : State} {acc : AccessType} (hd : TickDone s t acc) (hk : s.vic.CoordOk) (hi : s.vic.CIndexOk) :
    t.vic.CIndexOk := by
  obtain ⟨hphase, hcycle, -⟩ := hd.coordinate
  have hle : t.vic.vmli.toNat ≤ s.vic.ticked.vmli.toNat + if acc = .videoMatrixColor then 1 else 0 := by
    rw [hd.vic]; exact Vic.afterAccess_vmli_le _ _ _
  simp only [Vic.ticked_vmli_eq, Vic.inSlot1_congr (Vic.ticked_phase s.vic) (Vic.ticked_cycle s.vic)] at hle
  rw [Vic.CIndexOk, hphase, hcycle]
  unfold Vic.CIndexOk at hi
  by_cases hacc : acc = .videoMatrixColor
  · obtain ⟨hone, h15, h54⟩ := Vic.one_of_videoMatrix hk (hacc ▸ hd.access)
    obtain ⟨hslots1, hslots2⟩ := cSlotsDone_of_cSlot h15 h54
    rw [hone, hslots1] at hi
    rw [Vic.advance_of_one hone, if_neg (by simp [Vic.InSlot1]), if_pos hacc] at hle
    rw [Vic.advance_of_one hone]
    dsimp only
    omega
  · rw [if_neg hacc, Nat.add_zero] at hle
    by_cases h14 : s.vic.advance.InSlot1 14
    · rw [if_pos h14] at hle
      exact hle.trans (Nat.zero_le _)
    · rw [if_neg h14] at hle
      exact (hle.trans hi).trans (cSlotsDone_advance hk h14)

theorem TickDone.tickReady {s t : State} {acc : AccessType} (hd : TickDone s t acc) (h : s.TickReady) : t.TickReady :=
  ⟨hd.ready h.ready, hd.coordOk h.coord, hd.cIndexOk h.coord h.cIndex⟩

/-! ## Any number of steps -/

/-- An instruction that keeps a predicate and moves a counter modulo `m` on by one, any number of times in a row. -/
theorem times_completes {i : Instr} {I : State → Prop} {f : State → Nat} {m : Nat} (hlt : ∀ s, I s → f s < m)
    (hstep : ∀ s, I s → Completes (exec i s) fun t => I t ∧ f t = (f s + 1) % m) (n : Nat) :
    ∀ s, I s → Completes (times i n s) fun t => I t ∧ f t = (f s + n) % m := by
  induction n with
  | zero => exact fun s hs => ⟨s, rfl, hs, (Nat.mod_eq_of_lt (hlt s hs)).symm⟩
  | succ n ih =>
    intro s hs
    obtain ⟨t, ht, htI, htf⟩ := hstep s hs
    obtain ⟨u, hu, huI, huf⟩ := ih t htI
    refine ⟨u, ?_, huI, ?_⟩
    · rw [times, ht, andThen_next, hu]
    · rw [huf, htf, Nat.mod_add_mod, Nat.add_assoc, Nat.add_comm 1 n]

/-- Settles O53: a step completes from a ready state, keeps it ready and moves the frame index on by one; by induction on the
number of steps. -/
theorem theClockRunsForever : Obligations.TheClockRunsForever := fun n =>
  times_completes (fun _ h => Vic.frameIndex_lt h.coord)
    (fun _ h => tick_completes h fun _ _ hd => ⟨hd.tickReady h, hd.frameIndex h.coord⟩) n

end Sys2Proof.Machine

/-! PROOFS. What a step does at a raster change, to the bad-line predicate, and to nothing else (41_clock_model R122 to R126,
60_exceptions R223). -/
namespace Sys2Proof.Machine

/-! ## What the raster change does (R123 to R125, R223), and the bad-line predicate (R126) -/

/-- The steps that raise the interrupt (R124). -/
theorem Vic.raises_eq_true_iff {v : Vic} :
    v.raises = true ↔ v.EndsLine ∧ v.advance.raster = v.rasterLatch ∧ v.regs.irqEnableRaster = true := by
  simp [Vic.raises, Vic.atLineEnd_eq_true_iff, Vic.rasterMatch]

theorem Vic.clocked_published_of_endsLine {v : Vic} (h : v.EndsLine) :
    v.clocked.rasterLow = v.advance.raster.setWidth 8 ∧ v.clocked.rasterHigh = v.advance.raster.getLsbD 8 := by
  rw [Vic.clocked, if_pos (Vic.atLineEnd_eq_true_iff.mpr h), Vic.sampleDen_rasterLow, Vic.sampleDen_rasterHigh]
  exact ⟨rfl, rfl⟩

theorem Vic.clocked_of_not_endsLine {v : Vic} (h : ¬v.EndsLine) : v.clocked = v.advance := by
  rw [Vic.clocked, if_neg (mt Vic.atLineEnd_eq_true_iff.mp h)]

theorem Vic.clocked_irqRequestRaster (v : Vic) : v.clocked.irqRequestRaster = (v.irqRequestRaster || v.raises) := by
  unfold Vic.clocked Vic.raises
  cases v.atLineEnd <;> simp

/-- Bit 8 of a raster (R123). -/
theorem getLsbD_eight (r : BitVec 9) : r.getLsbD 8 = decide (256 ≤ r.toNat) := by
  rw [← BitVec.msb_eq_getLsbD_last r, BitVec.msb_eq_decide]

theorem badLineOf_eq_true_iff (r : BitVec 9) (y : BitVec 3) (den : Bool) : badLineOf r y den = true ↔
    0x30 ≤ r.toNat ∧ r.toNat ≤ 0xF7 ∧ r.toNat % 8 = y.toNat ∧ den = true := by
  have hlow : r.extractLsb' 0 3 = y ↔ r.toNat % 8 = y.toNat := by rw [← BitVec.toNat_inj]; simp
  simp [badLineOf, hlow, and_assoc]

section Done
variable {s t : State} {acc : AccessType} (hd : TickDone s t acc)
include hd

/-- The access of a step leaves the clock model's flags, the publication and the request as sub-steps 1 to 3 made
them (R160). -/
theorem TickDone.flags : t.vic.den = s.vic.clocked.den ∧ t.vic.badLine = s.vic.ticked.badLine
    ∧ t.vic.rasterLow = s.vic.clocked.rasterLow ∧ t.vic.rasterHigh = s.vic.clocked.rasterHigh
    ∧ t.vic.irqRequestRaster = s.vic.clocked.irqRequestRaster := by
  rw [hd.vic]; simp

theorem TickDone.registers : t.vic.regs = s.vic.regs ∧ t.vic.rasterLatch = s.vic.rasterLatch := by
  rw [hd.vic]; simp

/-- The steps that raise the interrupt, by the raster that they enter. -/
theorem TickDone.raises_iff : s.vic.raises = true ↔
    s.vic.EndsLine ∧ t.vic.raster = s.vic.rasterLatch ∧ s.vic.regs.irqEnableRaster = true := by
  obtain ⟨-, -, hraster⟩ := hd.coordinate
  rw [Vic.raises_eq_true_iff, hraster]

/-- A step reaches no other levels, whether it raises the interrupt or not (R121, R124). -/
theorem TickDone.holdsOthers : HoldsOthers s t stepBlockPins := by
  refine HoldsOthers.mono hd.levels ?_
  cases s.vic.raises with
  | true => exact fun _ => id
  | false => exact slotBlockPins_step

/-- A step draws no free value: its g-access, if it makes one, stands in a cycle with a column (R140, R146). -/
theorem TickDone.freeCtr_eq (hk : s.vic.CoordOk) : t.freeCtr = s.freeCtr := by
  obtain ⟨h1, h2⟩ := Vic.advance_cycle_range hk
  rw [← Vic.ticked_cycle] at h1 h2
  have hspec := Except.ok.inj ((slotDecode_eq_specSlot h1 h2 _ _ _).symm.trans hd.access)
  rw [hd.freeCtr, State.accessCtr_eq (s := s.setVic s.vic.ticked)]
  · rfl
  · by_cases hb : acc = .bitmapChar
    · exact .inr (.inr (specSlot_bitmapChar h1 h2 (hspec.trans hb)))
    · exact .inl hb

end Done

/-- Settles O23: by the three branches of the advance. -/
theorem tickAdvancesTheCoordinate : Obligations.TickAdvancesTheCoordinate := fun s h => tick_completes h fun t acc hd => by
  obtain ⟨hphase, hcycle, hraster⟩ := hd.coordinate
  rw [hphase, hcycle, hraster]
  obtain ⟨-, h65, h262⟩ := h.coord
  refine ⟨fun hp => ?one, fun hp => ⟨Vic.advance_of_two_phase hp, fun hc => ?lineEnd, fun hc => ?within⟩⟩
  case one => rw [Vic.advance_of_one hp]; exact ⟨rfl, rfl, rfl⟩
  case lineEnd => rw [Vic.advance_of_endsLine ⟨hp, hc⟩]; exact ⟨rfl, nextRaster_toNat h262⟩
  case within => rw [Vic.advance_of_two hp hc]; exact ⟨cycle_succ_toNat h65, rfl⟩

/-- Settles O24: sub-step 2 publishes and compares on the steps that end a line, and no other sub-step touches what it writes. -/
theorem rasterChangePublishesAndCompares : Obligations.RasterChangePublishesAndCompares := fun s h =>
    tick_completes h fun t acc hd => by
  obtain ⟨-, -, hraster⟩ := hd.coordinate
  obtain ⟨-, -, hlow, hhigh, hreq⟩ := hd.flags
  rw [Vic.clocked_irqRequestRaster] at hreq
  rw [← hd.raises_iff, hlow, hhigh, hreq]
  refine ⟨fun hend => ?published, fun hend => ?held, fun hr => ⟨?request, fun hb => ?irqLow⟩,
    fun hr => ⟨?noRequest, fun hb => ?irqHeld⟩⟩
  case published =>
    obtain ⟨hl, hh⟩ := Vic.clocked_published_of_endsLine hend
    rw [hl, hh, hraster, getLsbD_eight]
    exact ⟨BitVec.toNat_setWidth _ _, rfl⟩
  case held =>
    rw [Vic.clocked_of_not_endsLine hend]
    exact ⟨Vic.advance_rasterLow _, Vic.advance_rasterHigh _⟩
  case request => rw [hr, Bool.or_true]
  case irqLow => rw [hd.irq hb, if_pos hr]
  case noRequest => rw [Bool.eq_false_iff.mpr hr, Bool.or_false]
  case irqHeld => rw [hd.irq hb, if_neg hr]

/-- Settles O25: sub-step 2 samples, on the step that enters the line. -/
theorem displayEnableIsSampledOncePerFrame : Obligations.DisplayEnableIsSampledOncePerFrame := fun s h =>
    tick_completes h fun t acc hd => by
  obtain ⟨hden, -⟩ := hd.flags
  obtain ⟨-, -, hraster⟩ := hd.coordinate
  rw [hden, hraster, Vic.clocked_den]
  exact ⟨fun k => if_pos k, fun k => if_neg k⟩

/-- Settles O26: sub-step 3 computes the predicate from the raster, the scroll bits and `den` as they are after the step. -/
theorem badLinePredicate : Obligations.BadLinePredicate := fun s h => tick_completes h fun t acc hd => by
  obtain ⟨hden, hbad, -⟩ := hd.flags
  obtain ⟨-, -, hraster⟩ := hd.coordinate
  obtain ⟨hticked, -⟩ := Vic.ticked_rest s.vic
  rw [hbad, Vic.ticked_badLine, badLineOf_eq_true_iff, hticked, ← hden, hraster]

/-- Settles O41: the frame of a step, with IRQ among the pins that it sets exactly where the interrupt is raised. -/
theorem tickTouchesNothingElse : Obligations.TickTouchesNothingElse := fun s h => tick_completes h fun t acc hd => by
  obtain ⟨hregs, hlatch⟩ := hd.registers
  refine ⟨hregs, hlatch, hd.env, hd.pending, hd.freeCtr_eq h.coord, State.memAt_congr hd.env, hd.wiring, hd.holdsOthers,
    fun hr => ?quiet⟩
  case quiet =>
    have hlevels := hd.levels
    rwa [if_neg (mt hd.raises_iff.mp hr)] at hlevels

end Sys2Proof.Machine

/-! PROOFS. The block on its clock pin (R120, R127, R242): a change of PHI's level runs one STEP; that step is VIC_TICK in the
state of the call; and the clock source toggled any number of times runs one at each edge. -/
namespace Sys2Proof.Machine

section Observer
variable {s : State} {t p l n : Nat} {tr : Trace} {pin : Pin}

theorem OneListener.observer (h : OneListener s t p l n tr pin) : SoleObserver s t p tr pin := h.2.1

theorem OneListener.listeners (h : OneListener s t p l n tr pin) : pin.listeners = [l] := h.2.2

theorem SoleObserver.inputPin (h : SoleObserver s t p tr pin) :
    s.pins.find p = some pin ∧ pin.mode = .input ∧ pin.trace = some t := h.2.2

theorem SoleObserver.ne_of_output (h : SoleObserver s t p tr pin) {q : Nat} {src : Pin} (hq : s.pins.find q = some src)
    (hm : src.mode = .output) : p ≠ q := by
  obtain ⟨hp, hpm, -⟩ := h.inputPin
  rintro rfl
  rw [hp] at hq; cases hq
  rw [hpm] at hm; cases hm

/-- A resolution that changes the level of the clock pin is one STEP, in the state of the call (R120). -/
theorem OneListener.exec_change {i : Instr} {v : Signal} {u : State} (hone : OneListener u t p l n tr pin)
    (hres : s.Resolves i t v u) (hb : u.behaviour l = some .vicStep) (hne : adopt pin (resolve u tr v) ≠ pin.level) :
    exec i s = vicStep (invoke n) (u.calling t p l tr pin v) := by
  rw [hres.exec, hres.invoker, hone.push v hne, hb]; rfl

end Observer

/-- Settles O20: the push runs the pin's one listener, the block's STEP, on a change, and nothing otherwise. -/
theorem phiChangeRunsOneStep : Obligations.PhiChangeRunsOneStep := by
  refine ⟨fun s i t p l n tr pin v u hres hone hb => ⟨hone.exec_change hres hb, fun heq => ?noChange⟩, exec_vicTick⟩
  case noChange =>
    obtain ⟨hpush, -⟩ := hone.observer.push s.invoker v
    rw [hres.exec, hpush heq]

/-! ## Boards of one wiring -/

/-- A pin of the same board differs in its level at most. -/
theorem SameWiring.find_pin {s u : State} (h : SameWiring s u) {p : Nat} {pin : Pin} (hp : s.pins.find p = some pin) :
    u.pins.find p = some { pin with level := u.pinLevel p } := by
  have hstatic := h.1 p
  rw [hp, Option.map_some] at hstatic
  obtain ⟨pin', hp', he⟩ := Option.map_eq_some_iff.mp hstatic
  have hrec : pin' = { pin with level := pin'.level } := congrArg (fun x : Pin => { x with level := pin'.level }) he
  rw [State.pinLevel, hp']
  exact congrArg some hrec

/-- A trace of the same board differs in its level at most. -/
theorem SameWiring.find_trace {s u : State} (h : SameWiring s u) {t : Nat} {tr : Trace} (ht : s.traces.find t = some tr) :
    u.traces.find t = some { tr with level := u.traceLevel t } := by
  have hstatic := h.2 t
  rw [ht, Option.map_some] at hstatic
  obtain ⟨tr', ht', he⟩ := Option.map_eq_some_iff.mp hstatic
  have hrec : tr' = { tr with level := tr'.level } := congrArg (fun x : Trace => { x with level := tr'.level }) he
  rw [State.traceLevel, ht']
  exact congrArg some hrec

theorem SameWiring.blind {s u : State} (h : SameWiring s u) {q : Nat} (hb : s.blind q = true) : u.blind q = true := by
  cases hq : s.pins.find q with
  | none => simp [State.blind, hq] at hb
  | some pin =>
    simp only [State.blind, hq] at hb
    simpa only [State.blind, h.find_pin hq] using hb

/-- An observer that is alone on its trace stays so. -/
theorem SoleObserver.transfer {s u : State} {t p : Nat} {tr : Trace} {pin : Pin} (h : SoleObserver s t p tr pin)
    (hw : SameWiring s u) :
    SoleObserver u t p { tr with level := u.traceLevel t } { pin with level := u.pinLevel p } := by
  obtain ⟨ht, ⟨others, hm, hb⟩, hp, hmo, hpt⟩ := h
  exact ⟨hw.find_trace ht, ⟨others, hm, fun q hq => hw.blind (hb q hq)⟩, hw.find_pin hp, hmo, hpt⟩

/-! ## One edge -/

/-- A step leaves the clock trace and the pins on it alone: the listener on that trace does not only record. -/
theorem TickDone.clock_holds {c w : State} {acc : AccessType} (hd : TickDone c w acc) (hr : c.TickReady) {t p l : Nat}
    {tr : Trace} {pin : Pin} (hobs : SoleObserver c t p tr pin) (hl : l ∈ pin.listeners) (hb : c.behaviour l ≠ none) :
    w.traceLevel t = c.traceLevel t ∧ ∀ q, c.traceOf q = some t → w.pinLevel q = c.pinLevel q := by
  obtain ⟨ht, ⟨others, hm, -⟩, hp, -, -⟩ := hobs
  have hmem : p ∈ tr.members := hm ▸ List.mem_append_right others (List.mem_singleton.mpr rfl)
  exact HoldsBut.off hd.holdsOthers (hr.ready.off ht hmem (State.pinListeners_eq hp ▸ hl) hb)

/-- What an edge leaves, that found the board in `s` and called the block's STEP in `c`. -/
structure EdgeDone (s c w : State) (t : Nat) : Prop where
  ready      : w.TickReady
  wiring     : SameWiring s w
  env        : w.env = s.env
  trace      : w.traceLevel t = c.traceLevel t
  pins       : ∀ q, s.traceOf q = some t → w.pinLevel q = c.pinLevel q
  frameIndex : w.vic.frameIndex = (s.vic.frameIndex + 1) % 34190

section Edge
variable {s u : State} {i : Instr} {t p l n : Nat} {tr : Trace} {pin : Pin} {v : Signal}

/-- The state of the call has the board and the block of the state that the stimulus found. -/
theorem State.Resolves.calling (hres : s.Resolves i t v u) (hobs : SoleObserver u t p tr pin) (l : Nat) :
    SameWiring s (u.calling t p l tr pin v) ∧ (u.calling t p l tr pin v).vic = s.vic
      ∧ (u.calling t p l tr pin v).env = s.env ∧ (s.Wired → (u.calling t p l tr pin v).Wired) := by
  obtain ⟨hsu, ⟨hvic, henv, -⟩, -, hwu⟩ := hres.same
  obtain ⟨huc, ⟨hvic', henv', -⟩, hwc, -⟩ := hobs.calling l v
  exact ⟨hsu.trans huc, hvic'.trans hvic, henv'.trans henv, hwc ∘ hwu⟩

theorem State.Resolves.calling_tickReady (hres : s.Resolves i t v u) (hobs : SoleObserver u t p tr pin) (hr : s.TickReady)
    (l : Nat) : (u.calling t p l tr pin v).TickReady := by
  obtain ⟨hsc, hvic, henv, hwired⟩ := hres.calling hobs l
  exact hr.transfer (hwired hr.ready.wired) hsc henv hvic

/-- An edge is VIC_TICK in the state of the call, though that step has one invocation less: its listeners only record. -/
theorem exec_edge (hres : s.Resolves i t v u) (hone : OneListener u t p l (n + 1) tr pin)
    (hb : u.behaviour l = some .vicStep) (hr : s.TickReady) (hne : adopt pin (resolve u tr v) ≠ pin.level) :
    ∃ w, exec i s = .next w ∧ exec .vicTick (u.calling t p l tr pin v) = .next w
      ∧ EdgeDone s (u.calling t p l tr pin v) w t := by
  have hobs := hone.observer
  have hc := hres.calling_tickReady hobs hr l
  obtain ⟨hsc, hvic, henv, -⟩ := hres.calling hobs l
  obtain ⟨huc, ⟨-, henvu, -⟩, -⟩ := hobs.calling l v
  obtain ⟨w, acc, hw, hd⟩ := vicStep_runs hc
  have hbc : (u.calling t p l tr pin v).behaviour l ≠ none := by rw [State.behaviour, henvu, ← State.behaviour, hb]; simp
  obtain ⟨htrace, hpins⟩ := hd.clock_holds hc (hobs.transfer huc) (l := l) (by simp [hone.listeners]) hbc
  refine ⟨w, ?_, (exec_vicTick _).trans (hw _ hc.ready.fuel), hd.tickReady hc, hsc.trans hd.wiring, hd.env.trans henv, htrace,
    fun q hq => hpins q ((hsc.traceOf q).trans hq), ?_⟩
  · rw [hone.exec_change hres hb hne]
    exact hw (n + 1) n.succ_pos
  · rw [hd.frameIndex hc.coord, hvic]

end Edge

/-! ## The board of program P5 -/

/-- A level that is `0` or `1` has another, which PIN_TOGGLE sets (R96). -/
theorem exists_toggled {pin : Pin} (h : pin.level ≠ .floating) (q : Handle) :
    ∃ v, v ≠ .floating ∧ v ≠ pin.level ∧ (Instr.pinToggle q).SetsPin q v pin := by
  cases hl : pin.level with
  | low => exact ⟨.high, by simp, by simp, .inr ⟨rfl, .inl ⟨hl, rfl⟩⟩⟩
  | high => exact ⟨.low, by simp, by simp, .inr ⟨rfl, .inr ⟨hl, rfl⟩⟩⟩
  | floating => exact absurd hl h

/-- The level of another pin of the board leaves a sole observer alone. -/
theorem SoleObserver.setPin_level {s : State} {t p q : Nat} {tr : Trace} {pin src : Pin} (h : SoleObserver s t p tr pin)
    (hq : s.pins.find q = some src) (hne : p ≠ q) (v : Signal) :
    SoleObserver (s.setPin q { src with level := v }) t p tr pin := by
  obtain ⟨ht, ⟨others, hm, hb⟩, hp, hmo, hpt⟩ := h
  exact ⟨ht, ⟨others, hm, fun r hr => (SameWiring.setPin_level hq v).blind (hb r hr)⟩, (Arena.find_put_ne _ hne _).trans hp,
    hmo, hpt⟩

/-- On a trace of a driver and an observer the driver's level is the trace's (R80, R81). -/
theorem resolve_setPin_source {s : State} {p q : Nat} {tr : Trace} {pin src : Pin} (hm : tr.members = [q, p])
    (hp : s.pins.find p = some pin) (hpm : pin.mode = .input) (hqm : src.mode = .output) {v : Signal} (hv : v ≠ .floating) :
    resolve (s.setPin q { src with level := v }) tr .floating = v := by
  refine resolve_of_agreement (p := q) (by simp [hm]) ⟨_, Arena.find_put_same _ _ _, hqm, rfl⟩
    (agreement_setPin fun r hr hne w _ ⟨rpin, hrp, hro, _⟩ => ?_) fun e => absurd e hv
  obtain rfl : r = p := by simpa [hm, hne] using hr
  rw [hp] at hrp; cases hrp
  rw [hpm] at hro; cases hro

theorem State.calling_pinLevel_ne {u : State} {t p l q : Nat} {tr : Trace} {pin : Pin} {v : Signal} (hne : q ≠ p) :
    (u.calling t p l tr pin v).pinLevel q = u.pinLevel q := by
  unfold State.pinLevel State.calling
  rw [State.emit_pins, State.setPin_pins, State.setTrace_pins, Arena.find_put_ne _ hne]

/-- Such a board stays one while its wiring and its clock line's levels agree (R242). -/
theorem State.PhiBoard.transfer {s w : State} {q : Handle} {t p l : Nat} (h : s.PhiBoard q t p l) (hw : SameWiring s w)
    (he : w.env = s.env) (hr : w.TickReady) (ht : w.traceLevel t ≠ .floating) (hq : w.pinLevel q.toNat = w.traceLevel t)
    (hp : w.pinLevel p = w.traceLevel t) : w.PhiBoard q t p l where
  ready := hr
  fuel := he ▸ h.fuel
  step := by rw [State.behaviour, he]; exact h.step
  clock := by
    obtain ⟨tr, src, pin, hobs, hl, hm, hsrc, hmo, hst, -⟩ := h.clock
    exact ⟨_, _, _, hobs.transfer hw, hl, hm, hw.find_pin hsrc, hmo, hst, hq, hp, ht⟩

/-- One toggle of the clock source is one edge (R120, R242). -/
theorem State.PhiBoard.toggle {s : State} {q : Handle} {t p l : Nat} (h : s.PhiBoard q t p l) :
    Completes (exec (.pinToggle q) s) fun w =>
      w.PhiBoard q t p l ∧ w.vic.frameIndex = (s.vic.frameIndex + 1) % 34190 := by
  obtain ⟨tr, src, pin, hobs, hl, hm, hq, hqm, hqt, hlevel, hplevel, hz⟩ := h.clock
  obtain ⟨n, hfuel⟩ : ∃ n, s.env.fuel = n + 1 + 1 := ⟨s.env.fuel - 2, by have := h.fuel; omega⟩
  obtain ⟨v, hv, hchange, hsets⟩ := exists_toggled (hlevel ▸ hz) q
  obtain ⟨hp, hpm, hpt⟩ := hobs.inputPin
  have hne : p ≠ q.toNat := hobs.ne_of_output hq hqm
  let u := s.setPin q.toNat { src with level := v }
  have hres : s.Resolves (.pinToggle q) t .floating u :=
    .inr ⟨q, src, v, hq, by rw [hqm]; rfl, hqt, hsets, by simp [hqm], rfl⟩
  have hobs' : SoleObserver u t p tr pin := hobs.setPin_level hq hne v
  have hlvl : resolve u tr .floating = v := resolve_setPin_source hm hp hpm hqm hv
  have hadopt : adopt pin v = v := adopt_eq_self fun e => absurd e hv
  obtain ⟨w, hw, -, hd⟩ := exec_edge hres ⟨hfuel, hobs', hl⟩ h.step h.ready
    (by rw [hlvl, hadopt, hplevel, ← hlevel]; exact hchange)
  obtain ⟨-, -, -, hct, hcp⟩ := hobs'.calling l .floating
  rw [hlvl] at hct
  rw [hlvl, hadopt] at hcp
  have hwt : w.traceLevel t = v := hd.trace.trans hct
  have hwp : w.pinLevel p = v := (hd.pins p (by rw [State.traceOf_eq hp, hpt])).trans hcp
  have hwq : w.pinLevel q.toNat = v := by
    rw [hd.pins _ (by rw [State.traceOf_eq hq, hqt]), State.calling_pinLevel_ne hne.symm, State.pinLevel,
      State.setPin_pins, Arena.find_put_same]
  exact ⟨w, hw, h.transfer hd.wiring hd.env hd.ready (hwt ▸ hv) (hwq.trans hwt.symm) (hwp.trans hwt.symm), hd.frameIndex⟩

/-- Settles O60: an edge is VIC_TICK in the state of the call, which is ready; and a toggle of the clock source, which is one
edge, leaves such a board, by induction on the number of toggles. -/
theorem edgesOfPhiRunTheBlock : Obligations.EdgesOfPhiRunTheBlock := by
  refine ⟨fun s i t p l n tr pin v u hres hone hb hr hne => ?edge, fun n s q t p l => ?edges⟩
  case edge =>
    have hobs := hone.observer
    obtain ⟨-, -, -, htrace, hpin⟩ := hobs.calling l v
    obtain ⟨-, hvic, -⟩ := hres.calling hobs l
    obtain ⟨w, hw, htick, hd⟩ := exec_edge hres hone hb hr hne
    have hpt : s.traceOf p = some t := by
      obtain ⟨hp, -, hpt⟩ := hobs.inputPin
      rw [← hres.same.1.traceOf, State.traceOf_eq hp, hpt]
    exact ⟨hres.calling_tickReady hobs hr l, hvic, hw.trans htick.symm, w, hw, hd.ready, hd.trace.trans htrace,
      (hd.pins p hpt).trans hpin, hd.wiring, hd.frameIndex⟩
  case edges =>
    exact times_completes (I := fun s => s.PhiBoard q t p l) (fun _ h => Vic.frameIndex_lt h.ready.coord)
      (fun _ h => h.toggle) n s

end Sys2Proof.Machine

/-! PROOFS. The scheduler in a step (42_scheduler_access R140 to R160, 43_bus_ownership R180 to R182): the access that a step
makes is the slot map's, its operands are those from before the step, and its record and its side effect are read off it. -/
namespace Sys2Proof.Machine

/-! ## Where the slot map has its accesses (R67) -/

section SlotMap
variable {ph : Phase} {c : Nat} {badLine : Bool} {dma : Fin 8 → Bool}

theorem specSlot_eq_refresh_iff : specSlot ph c badLine dma = .refresh ↔ ph = .one ∧ 11 ≤ c ∧ c ≤ 15 := by
  refine ⟨fun h => ?only, ?always⟩
  case only =>
    unfold specSlot at h
    repeat' split at h
    all_goals cases h
    exact ⟨rfl, ‹_›⟩
  case always =>
    rintro ⟨rfl, h1, h2⟩
    interval_cases c <;> rfl

theorem specSlot_eq_videoMatrixColor_iff :
    specSlot ph c badLine dma = .videoMatrixColor ↔ ph = .two ∧ 15 ≤ c ∧ c ≤ 54 ∧ badLine = true := by
  refine ⟨fun h => ?only, ?always⟩
  case only =>
    unfold specSlot at h
    repeat' split at h
    all_goals cases h
    exact ⟨rfl, ‹_›⟩
  case always =>
    rintro ⟨rfl, h1, h2, rfl⟩
    interval_cases c <;> rfl

end SlotMap

/-- The slots in which a sprite changes otherwise than by its fetch (R200 to R203). -/
def Vic.InSpriteTransition (v : Vic) : Prop :=
  v.InSlot1 15 ∨ v.InSlot1 16 ∨ v.InSlot1 55 ∨ v.InSlot1 56 ∨ v.InSlot1 58

/-- The access of those slots does not ask for DMA: none is a sprite's data slot. -/
theorem Vic.InSpriteTransition.specSlot_const {v : Vic} (h : v.InSpriteTransition) :
    ∃ acc, (∀ n, acc ≠ .spriteData n) ∧ ∀ badLine dma, specSlot v.phase v.cycle.toNat badLine dma = acc := by
  rcases h with ⟨hp, hc⟩ | ⟨hp, hc⟩ | ⟨hp, hc⟩ | ⟨hp, hc⟩ | ⟨hp, hc⟩ <;> rw [hp, hc]
  · exact ⟨.refresh, by simp, fun _ _ => rfl⟩
  · exact ⟨.bitmapChar, by simp, fun _ _ => rfl⟩
  · exact ⟨.bitmapChar, by simp, fun _ _ => rfl⟩
  · exact ⟨.idle, by simp, fun _ _ => rfl⟩
  · exact ⟨.idle, by simp, fun _ _ => rfl⟩

/-- Outside those slots sub-steps 1 to 5 leave every sprite. -/
theorem Vic.ticked_sprite_of_not_transition {v : Vic} (h : ¬v.ticked.InSpriteTransition) (n : Fin 8) :
    v.ticked.sprites[n] = v.sprites[n] := by
  simp only [Vic.InSpriteTransition, not_or] at h
  obtain ⟨h15, h16, h55, h56, h58⟩ := h
  rw [Vic.ticked_sprite, if_neg h15, if_neg h16, if_neg (not_or.mpr ⟨h55, h56⟩), if_neg h58]

/-- The slot map under the sprites' DMA from before the step. -/
theorem Vic.specSlot_dma_ticked (v : Vic) (badLine : Bool) :
    specSlot v.ticked.phase v.ticked.cycle.toNat badLine v.dma
      = specSlot v.ticked.phase v.ticked.cycle.toNat badLine v.ticked.dma := by
  by_cases h : v.ticked.InSpriteTransition
  · obtain ⟨acc, -, hacc⟩ := h.specSlot_const
    rw [hacc, hacc]
  · have hdma : v.dma = v.ticked.dma := funext fun n => by
      rw [Vic.dma, Vic.dma, Vic.ticked_sprite_of_not_transition h]
    rw [hdma]

/-! ## The operands of a step's access -/

theorem Vic.ticked_cycle_range {v : Vic} (hk : v.CoordOk) : 1 ≤ v.ticked.cycle.toNat ∧ v.ticked.cycle.toNat ≤ 65 := by
  rw [Vic.ticked_cycle]
  exact Vic.advance_cycle_range hk

/-- The access of a step has the address that the block's state before the step gives: of what an access reads, the transition
of its slot changes only `idle` (R121, R143 to R156). -/
theorem Vic.specAddr_ticked (v : Vic) {acc : AccessType} (h1 : 1 ≤ v.ticked.cycle.toNat) (h2 : v.ticked.cycle.toNat ≤ 65)
    (hacc : specSlot v.ticked.phase v.ticked.cycle.toNat v.ticked.badLine v.ticked.dma = acc) :
    specAddr v.ticked v.ticked.cycle.toNat acc
      = specAddr { v with idle := v.ticked.idle } v.ticked.cycle.toNat acc := by
  obtain ⟨-, -, -, -, -, hcache, hptr, hregs⟩ := v.ticked_rest
  cases acc with
  | idle => simp only [specAddr, hregs]
  | cpuOwned => rfl
  | spritePointer n => simp only [specAddr, hregs]
  | refresh =>
    obtain ⟨-, h11, -⟩ := specSlot_eq_refresh_iff.mp hacc
    have hframe : ¬(v.ticked.InSlot1 1 ∧ v.ticked.raster.toNat = 0) := fun ⟨⟨_, h⟩, _⟩ => by omega
    simp only [specAddr, Vic.ticked_ref, if_neg hframe]
  | videoMatrixColor =>
    obtain ⟨hp, -⟩ := specSlot_eq_videoMatrixColor_iff.mp hacc
    have h14 : ¬v.ticked.InSlot1 14 := fun ⟨hone, _⟩ => by rw [hp] at hone; cases hone
    simp only [specAddr, hregs, Vic.ticked_vc, if_neg h14]
  | bitmapChar =>
    obtain ⟨h16, h55⟩ := specSlot_bitmapChar h1 h2 hacc
    have hframe : ¬(v.ticked.InSlot1 1 ∧ v.ticked.raster.toNat = 0) := fun ⟨⟨_, h⟩, _⟩ => by omega
    have h14 : ¬v.ticked.InSlot1 14 := fun ⟨_, h⟩ => by omega
    have h58 : ¬v.ticked.InSlot1 58 := fun ⟨_, h⟩ => by omega
    have hbase : v.ticked.vcbase = v.vcbase := by rw [Vic.ticked_vcbase, if_neg hframe, if_neg h58]
    have hrc : v.ticked.rc = v.rc := by rw [Vic.ticked_rc, if_neg h14, if_neg h58]
    simp only [specAddr, specGAddr, specTextAddr, specBmpAddr, Vic.cacheByte, hregs, hcache, hbase, hrc]
  | spriteData n =>
    have hn : ¬v.ticked.InSpriteTransition := fun h => by
      obtain ⟨acc, hne, hall⟩ := h.specSlot_const
      exact hne n ((hall _ _).symm.trans hacc)
    simp only [specAddr, hptr, Vic.ticked_sprite_of_not_transition hn]

/-- The c-access in display state: one entry takes the data, `vc` and `vmli` go up by one (R145). -/
theorem Vic.afterAccess_cAccess {v : Vic} (hlt : v.vmli.toNat < 40) (hidle : v.idle = false) (data : BitVec 12) :
    (∀ k : Fin 40, (v.afterAccess .videoMatrixColor data).lineCache[k] = if k.val = v.vmli.toNat then data else v.lineCache[k])
      ∧ (v.afterAccess .videoMatrixColor data).vc.toNat = (v.vc.toNat + 1) % 1024
      ∧ (v.afterAccess .videoMatrixColor data).vmli.toNat = v.vmli.toNat + 1 := by
  obtain ⟨hentry, hrest⟩ := Vic.afterAccess_effect (acc := .videoMatrixColor) (fun _ => hlt) data
  have hvc : (v.afterAccess .videoMatrixColor data).vc = v.vc + 1 := by rw [hrest, hidle]; rfl
  have hvmli : (v.afterAccess .videoMatrixColor data).vmli = v.vmli + 1 := by rw [hrest, hidle]; rfl
  refine ⟨hentry, by rw [hvc]; exact BitVec.toNat_add _ _, ?_⟩
  rw [hvmli]; bv_omega

/-- The address of a step's access. -/
def State.tickAddr (s : State) (acc : AccessType) : Option (BitVec 14) :=
  (s.setVic s.vic.ticked).accessAddr s.vic.ticked.cycle acc

section Done
variable {s t : State} {acc : AccessType} (hd : TickDone s t acc)
include hd

/-- The coordinate, `badLine` and `idle` are for the access what they are after the step (R160). -/
theorem TickDone.ticked_slot : t.vic.phase = s.vic.ticked.phase ∧ t.vic.cycle = s.vic.ticked.cycle
    ∧ t.vic.raster = s.vic.ticked.raster ∧ t.vic.badLine = s.vic.ticked.badLine ∧ t.vic.idle = s.vic.ticked.idle := by
  rw [hd.vic]; simp only [Vic.afterAccess_coord, Vic.afterAccess_rest, and_self]

theorem TickDone.inSlot1_iff (c : Nat) : t.vic.InSlot1 c ↔ s.vic.ticked.InSlot1 c := by
  obtain ⟨hp, hc, -⟩ := hd.ticked_slot
  exact Vic.inSlot1_congr hp hc c

/-- An access ends no DMA and starts none (R160). -/
theorem TickDone.dma_eq : t.vic.dma = s.vic.ticked.dma := funext fun n => by
  rw [Vic.dma, Vic.dma, hd.vic, Vic.afterAccess_sprite]
  split <;> rfl

/-- A sprite after a step: the s-access counts its own sprite's `mc` (R156, R160). -/
theorem TickDone.sprite (n : Fin 8) : t.vic.sprites[n] = if acc = .spriteData n then
    { s.vic.ticked.sprites[n] with mc := s.vic.ticked.sprites[n].mc + 1 } else s.vic.ticked.sprites[n] := by
  rw [hd.vic, Vic.afterAccess_sprite]

theorem TickDone.sprPtr : t.vic.sprPtr = if ∃ n, acc = .spritePointer n then
    (((s.tickAddr acc).map t.busData).getD 0).setWidth 8 else s.vic.sprPtr := by
  obtain ⟨-, -, -, -, -, -, hptr, -⟩ := s.vic.ticked_rest
  rw [hd.vic, Vic.afterAccess_sprPtr, hptr]; rfl

theorem TickDone.ref : t.vic.ref = if acc = .refresh then s.vic.ticked.ref - 1 else s.vic.ticked.ref := by
  rw [hd.vic, Vic.afterAccess_ref]

/-- Only a c-access stores and counts (R145, R160). -/
theorem TickDone.counters_of_ne (hne : acc ≠ .videoMatrixColor) : t.vic.vc = s.vic.ticked.vc
    ∧ t.vic.vmli = s.vic.ticked.vmli ∧ t.vic.lineCache = s.vic.ticked.lineCache := by
  rw [hd.vic]
  exact Vic.afterAccess_counter _ hne _

/-- The one access record of a step (R159). -/
theorem TickDone.handed : Handed s t ⟨t.vic.raster, t.vic.cycle, t.vic.phase, acc, s.tickAddr acc,
    (s.tickAddr acc).map t.busData, specBlank { s.vic with idle := t.vic.idle } acc,
    baLevel t.vic.phase t.vic.cycle t.vic.badLine t.vic.dma, aecLevel t.vic.phase acc⟩ := by
  obtain ⟨hp, hc, hr, hbad, hidle⟩ := hd.ticked_slot
  obtain ⟨-, -, -, -, -, -, -, hregs⟩ := s.vic.ticked_rest
  have hblank : specBlank { s.vic with idle := t.vic.idle } acc = s.vic.ticked.accessBlank acc := by
    rw [Vic.accessBlank_eq_specBlank, specBlank, specBlank, hidle, hregs]
  rw [hblank, hp, hc, hr, hbad, hd.dma_eq]
  exact hd.out

variable (hk : s.vic.CoordOk)
include hk

theorem TickDone.ticked_specSlot :
    specSlot s.vic.ticked.phase s.vic.ticked.cycle.toNat s.vic.ticked.badLine s.vic.ticked.dma = acc := by
  obtain ⟨h1, h2⟩ := Vic.ticked_cycle_range hk
  exact Except.ok.inj ((slotDecode_eq_specSlot h1 h2 _ _ _).symm.trans hd.access)

/-- The access of a step is the slot map's (R67, R140, R141). -/
theorem TickDone.specSlot_eq : specSlot t.vic.phase t.vic.cycle.toNat t.vic.badLine t.vic.dma = acc := by
  obtain ⟨hp, hc, -, hbad, -⟩ := hd.ticked_slot
  rw [hp, hc, hbad, hd.dma_eq, hd.ticked_specSlot hk]

/-- It is so under the sprites' DMA from before the step too. -/
theorem TickDone.specSlot_dma_before : specSlot t.vic.phase t.vic.cycle.toNat t.vic.badLine s.vic.dma = acc := by
  obtain ⟨hp, hc, -, hbad, -⟩ := hd.ticked_slot
  rw [hp, hc, hbad, Vic.specSlot_dma_ticked, hd.ticked_specSlot hk]

/-- The address is the one that the rule of the access gives from the block's state before the step (R143 to R156). -/
theorem TickDone.tickAddr_toNat : (s.tickAddr acc).map BitVec.toNat
    = specAddr { s.vic with idle := t.vic.idle } t.vic.cycle.toNat acc := by
  obtain ⟨h1, h2⟩ := Vic.ticked_cycle_range hk
  obtain ⟨-, hc, -, -, hidle⟩ := hd.ticked_slot
  have hslot := hd.ticked_specSlot hk
  have hnamed : s.vic.ticked.ColumnNamed s.vic.ticked.cycle acc := by
    by_cases hb : acc = .bitmapChar
    · exact .inr (.inr (specSlot_bitmapChar h1 h2 (hslot.trans hb)))
    · exact .inl hb
  rw [hc, hidle, ← Vic.specAddr_ticked _ h1 h2 hslot]
  exact State.accessAddr_toNat (s := s.setVic s.vic.ticked) hnamed

end Done

/-! ## The statements -/

/-- Settles O44: each such word is the c-access, which stops after its read. -/
theorem lineCacheIndexOutOfRangeIsAViolation : Obligations.LineCacheIndexOutOfRangeIsAViolation := by
  refine fun s hv => ⟨fun hr => ?acc, fun i ph c hrow hr hslot => ?slot⟩
  case acc =>
    rw [exec_acc rfl]
    exact videoMatrixAccess_stops hr hv _ _ _ hr.fuel
  case slot =>
    obtain ⟨h1, h2⟩ := slotOf_cycle_range hrow
    rw [exec_slot hrow]
    exact runSlot_stops hr ((slotDecode_eq_specSlot h1 h2 ph _ _).trans (congrArg Except.ok hslot)) hv hr.fuel

/-- Settles O40: the access is the slot map's, and the pins show what its record says. -/
theorem tickRecordsAndDrivesTheSlot : Obligations.TickRecordsAndDrivesTheSlot := fun s h =>
    tick_completes h fun t acc hd => by
  obtain ⟨h1, h2, -⟩ := hd.coordOk h.coord
  obtain ⟨hp, hc, -, hbad, -⟩ := hd.ticked_slot
  have hslot := hd.specSlot_eq h.coord
  refine ⟨s.tickAddr acc, baLevel t.vic.phase t.vic.cycle t.vic.badLine t.vic.dma, aecLevel t.vic.phase acc, ?_⟩
  rw [hslot]
  refine ⟨hd.handed, hd.tickAddr_toNat h.coord, baLevel_eq_low_iff h1 h2 .., baLevel_ne_floating _ _ _ _, ?aec,
    aecLevel_ne_floating _ _, fun hb => ⟨?baPin, ?aecPin, showsAddress_of_addressLevel (hd.address hb)⟩⟩
  case aec => rw [← hslot]; exact aecLevel_specSlot h1 h2 ..
  case baPin => rw [hp, hc, hbad, hd.dma_eq]; exact hd.ba hb
  case aecPin => rw [hp]; exact hd.aec hb

/-- Settles O29: the frame start reloads the counter, a refresh access counts it down, in different slots. -/
theorem refreshCounterLife : Obligations.RefreshCounterLife := fun s h => tick_completes h fun t acc hd => by
  have hacc : acc = .refresh ↔ t.vic.phase = .one ∧ 11 ≤ t.vic.cycle.toNat ∧ t.vic.cycle.toNat ≤ 15 := by
    rw [← hd.specSlot_eq h.coord, specSlot_eq_refresh_iff]
  have hticked : s.vic.ticked.ref = if t.vic.InSlot1 1 ∧ t.vic.raster.toNat = 0 then 255 else s.vic.ref := by
    obtain ⟨-, -, hr, -⟩ := hd.ticked_slot
    simp only [Vic.ticked_ref, hd.inSlot1_iff, hr]
  have href := hd.ref
  rw [hticked] at href
  rw [← hacc]
  refine ⟨fun hrefresh => ⟨?counted, _, hd.handed, hrefresh, ?address⟩, fun hframe => ?reloaded, fun hne hframe => ?held⟩
  case counted =>
    obtain ⟨-, h11, -⟩ := hacc.mp hrefresh
    rw [href, if_pos hrefresh, if_neg fun ⟨⟨_, hc⟩, _⟩ => by omega]
    split <;> bv_omega
  case address => rw [hd.tickAddr_toNat h.coord, hrefresh]; rfl
  case reloaded =>
    have hne : acc ≠ .refresh := fun e => by
      obtain ⟨-, h11, -⟩ := hacc.mp e
      obtain ⟨⟨-, hc⟩, -⟩ := hframe
      omega
    rw [href, if_neg hne, if_pos hframe]; rfl
  case held => rw [href, if_neg hne, if_neg hframe]

/-- Settles O30: the c-access of the slot stores and counts, with `idle` left on a bad line; no other access does. -/
theorem videoMatrixAccessFillsTheLineCache : Obligations.VideoMatrixAccessFillsTheLineCache := fun s h =>
    tick_completes h fun t acc hd => by
  have hacc : acc = .videoMatrixColor ↔ t.vic.phase = .two ∧ 15 ≤ t.vic.cycle.toNat ∧ t.vic.cycle.toNat ≤ 54
      ∧ t.vic.badLine = true := by
    rw [← hd.specSlot_eq h.coord, specSlot_eq_videoMatrixColor_iff]
  obtain ⟨-, -, -, -, -, hcache, -⟩ := s.vic.ticked_rest
  have hcounters : ¬t.vic.InSlot1 14 → s.vic.ticked.vc = s.vic.vc ∧ s.vic.ticked.vmli = s.vic.vmli := fun h14 => by
    rw [hd.inSlot1_iff] at h14
    exact ⟨(Vic.ticked_vc _).trans (if_neg h14), (Vic.ticked_vmli_eq _).trans (if_neg h14)⟩
  rw [← hacc]
  refine ⟨fun hc => ?stored, fun hne => ?held⟩
  case stored =>
    obtain ⟨hp, -, -, hbad⟩ := hacc.mp hc
    subst hc
    obtain ⟨hvc, hvmli⟩ := hcounters fun ⟨hone, _⟩ => by rw [hp] at hone; cases hone
    have hidle : s.vic.ticked.idle = false := by
      obtain ⟨-, -, -, hbad', -⟩ := hd.ticked_slot
      rw [Vic.ticked_idle, ← hbad', hbad]; rfl
    have hlt : s.vic.ticked.vmli.toNat < 40 := Vic.ticked_vmli_lt h.coord h.cIndex hd.access
    refine ⟨_, _, hd.handed, rfl, hd.tickAddr_toNat h.coord, rfl, hvmli ▸ hlt, ?_⟩
    rw [hd.vic, ← hvc, ← hvmli, ← hcache]
    exact Vic.afterAccess_cAccess hlt hidle _
  case held =>
    obtain ⟨hvc, hvmli, hlines⟩ := hd.counters_of_ne hne
    rw [hvc, hvmli, hlines]
    exact ⟨hcache, hcounters⟩

/-- Settles O35: the transitions apart, a sprite and the pointer register change only by the slot's own access. -/
theorem spriteFetchesMoveMcAndThePointer : Obligations.SpriteFetchesMoveMcAndThePointer := fun s h =>
    tick_completes h fun t acc hd => by
  rw [hd.specSlot_dma_before h.coord]
  refine ⟨fun h15 h16 h55 h56 h58 n => ?sprite, fun n hn => ?pointer, fun hne => ?held⟩
  case sprite =>
    have hnot : ¬s.vic.ticked.InSpriteTransition := by
      simpa only [Vic.InSpriteTransition, ← hd.inSlot1_iff, not_or] using ⟨h15, h16, h55, h56, h58⟩
    rw [hd.sprite, Vic.ticked_sprite_of_not_transition hnot]
  case pointer =>
    subst hn
    refine ⟨_, _, hd.handed, rfl, rfl, hd.tickAddr_toNat h.coord, ?_⟩
    rw [hd.sprPtr, if_pos ⟨n, rfl⟩]; rfl
  case held => rw [hd.sprPtr, if_neg fun ⟨n, hn⟩ => hne n hn]

end Sys2Proof.Machine

/-! PROOFS. What the other bus master may rely on (43_bus_ownership R180, R181, R183): BA follows its windows, AEC tells whose
slot it is, and BA has been low for three cycles before the block takes a slot of phase 2. -/
namespace Sys2Proof.Machine

/-! ## The levels of BA and AEC (R180, R181) -/

theorem baLevel_eq_high_iff {c : BitVec 7} (h1 : 1 ≤ c.toNat) (h2 : c.toNat ≤ 65) (ph : Phase) (badLine : Bool)
    (dma : Fin 8 → Bool) : baLevel ph c badLine dma = .high ↔ ¬SpecBaLow ph c.toNat badLine dma := by
  rw [← baLevel_eq_low_iff h1 h2]
  have hdriven := baLevel_ne_floating ph c badLine dma
  cases h : baLevel ph c badLine dma <;> simp_all

/-- Settles O37: the level is low in the windows, high outside them, and never anything else. -/
theorem baFollowsTheWindows : Obligations.BaFollowsTheWindows := fun ph _ badLine dma h1 h2 =>
  ⟨(baLevel_eq_low_iff h1 h2 ph badLine dma).mpr, (baLevel_eq_high_iff h1 h2 ph badLine dma).mpr⟩

theorem aecLevel_eq_low_iff (ph : Phase) (acc : AccessType) : aecLevel ph acc = .low ↔ aecLevel ph acc ≠ .high := by
  have hdriven := aecLevel_ne_floating ph acc
  cases h : aecLevel ph acc <;> simp_all

/-- Only a cycle of 1 to 65 decodes, and it decodes to the slot map's access (R67, R141). -/
theorem slotDecode_eq_ok_iff {ph : Phase} {c : BitVec 7} {badLine : Bool} {dma : Fin 8 → Bool} {acc : AccessType} :
    slotDecode ph c badLine dma = .ok acc ↔ (1 ≤ c.toNat ∧ c.toNat ≤ 65) ∧ specSlot ph c.toNat badLine dma = acc := by
  obtain ⟨hin, hout⟩ := slotDecodeIsTheSlotMap ph c badLine dma
  by_cases hc : 1 ≤ c.toNat ∧ c.toNat ≤ 65
  · simp [hin hc, hc]
  · simp [hout (by omega), hc]

/-- Settles O38: AEC is high in a slot of the map exactly where it is CpuOwned, and it is never high in phase 1. -/
theorem aecIsHighExactlyWhenTheCpuOwnsTheBus : Obligations.AecIsHighExactlyWhenTheCpuOwnsTheBus :=
    fun ph c badLine dma acc h => by
  obtain ⟨⟨h1, h2⟩, rfl⟩ := slotDecode_eq_ok_iff.mp h
  have hhigh := aecLevel_specSlot h1 h2 ph badLine dma
  refine ⟨fun hcpu => ?cpu, fun hblock => (aecLevel_eq_low_iff ..).mpr (mt hhigh.mp hblock)⟩
  case cpu =>
    have haec := hhigh.mpr hcpu
    exact ⟨((aecLevel_eq_high_iff ..).mp haec).1, haec⟩

/-! ## The lead of BA (R183) -/

/-- A phase-2 data slot stands in its sprite's pointer cycle (R142). -/
theorem dataSprite_two_eq_some {c : Nat} {n : Fin 8} (h : dataSprite .two c = some n) : Config.hw.ptrCycle[n] = c := by
  have htable : ∀ d ∈ Config.hw.dataSlots, d.phase = .two → Config.hw.ptrCycle[d.sprite] = d.cycle := by decide
  obtain ⟨d, hd, rfl⟩ := Option.map_eq_some_iff.mp h
  have hslot := List.find?_some hd
  simp only [Bool.and_eq_true, beq_iff_eq] at hslot
  obtain ⟨hcycle, hphase⟩ := hslot
  rw [htable d (List.mem_of_find?_eq_some hd) hphase, hcycle]

/-- The block takes a phase-2 slot only for a sprite in DMA in its pointer cycle, or for a c-access of a bad line (R141). -/
theorem slotDecode2_taken {c : Nat} {badLine : Bool} {dma : Fin 8 → Bool} (h : slotDecode2 c badLine dma ≠ .cpuOwned) :
    (∃ n, dma n = true ∧ Config.hw.ptrCycle[n] = c) ∨ (badLine = true ∧ 15 ≤ c ∧ c ≤ 54) := by
  unfold slotDecode2 at h
  split at h
  next n hn => exact .inl ⟨n, by by_contra hd; simp [hd] at h, dataSprite_two_eq_some hn⟩
  next =>
    split at h
    next hc => exact .inr ⟨by by_contra hb; simp [hb] at h, hc⟩
    next => exact absurd rfl h

/-- A sprite's window begins seven half-cycles before the phase-2 slot of its pointer cycle, and that slot is in it (R180). -/
theorem spriteWindow_bounds (n : Fin 8) : spriteWindowLo n = 2 * (Config.hw.ptrCycle[n] : Int) - 8
    ∧ 2 * (Config.hw.ptrCycle[n] : Int) - 1 ≤ spriteWindowHi n := by
  unfold spriteWindowLo spriteWindowHi
  rw [Config.hw_baLead]
  split <;> omega

theorem slotIndex_two (c : BitVec 7) : slotIndex .two c = 2 * (c.toNat : Int) - 1 := by
  simp only [slotIndex, Phase.number]; omega

/-- `h` is `2 * cycle - 2` in phase 1 and one more in phase 2 (R17). -/
theorem slotIndex_bounds (ph : Phase) (c : BitVec 7) :
    2 * (c.toNat : Int) - 2 ≤ slotIndex ph c ∧ slotIndex ph c ≤ 2 * (c.toNat : Int) - 1 := by
  cases ph <;> simp only [slotIndex, Phase.number] <;> omega

/-- Settles O39: the slot taken is a sprite's, whose window begins seven half-cycles before it, in this line or in the one
before, or a bad line's, whose window begins in cycle 12. -/
theorem baLeadsEveryTakenPhase2SlotByThreeCycles : Obligations.BaLeadsEveryTakenPhase2SlotByThreeCycles :=
    fun c c' ph' k badLine dma h1 h2 h1' h2' hk1 hk6 hlead htaken => by
  rw [slotDecode_ok h1 h2] at htaken
  rw [slotIndex_two] at hlead
  rw [baLevel_eq_low_iff h1' h2']
  obtain ⟨n, hdma, hptr⟩ | ⟨hbad, h15, h54⟩ := slotDecode2_taken fun hcpu => htaken (congrArg Except.ok hcpu)
  case inl =>
    obtain ⟨hlo, hhi⟩ := spriteWindow_bounds n
    rw [hptr] at hlo hhi
    have hwindow : inSpriteWindow n (slotIndex ph' c') = true := by
      rw [inSpriteWindow_iff]
      exact hlead.imp (fun _ => by omega) (fun _ => by omega)
    exact .inr ⟨n, hdma, inSpriteWindow_slotIndex h1' h2' n ph' ▸ hwindow⟩
  case inr =>
    have hh := slotIndex_bounds ph' c'
    exact .inl ⟨hbad, by omega, by omega⟩

end Sys2Proof.Machine

/-! PROOFS. The background counters (44_background_counters R190 to R194): what each is after a step, by the slot that the step
arrives in, and that the access of the step leaves the row's counters alone. -/
namespace Sys2Proof.Machine

theorem Vic.InSlot1.not_inSlot1 {v : Vic} {a b : Nat} (h : v.InSlot1 a) (hne : a ≠ b) : ¬v.InSlot1 b :=
  fun h' => hne (h.unique h')

/-- The frame start has a slot of its own (R190). -/
theorem Vic.InSlot1.not_frameStart {v : Vic} {c : Nat} (h : v.InSlot1 c) (hne : c ≠ 1) :
    ¬(v.InSlot1 1 ∧ v.raster.toNat = 0) :=
  fun ⟨h1, _⟩ => h.not_inSlot1 hne h1

section Done
variable {s t : State} {acc : AccessType} (hd : TickDone s t acc)
include hd

/-- No access writes the row's counters (R160). -/
theorem TickDone.row_ticked :
    t.vic.vcbase = s.vic.ticked.vcbase ∧ t.vic.rc = s.vic.ticked.rc ∧ t.vic.idle = s.vic.ticked.idle := by
  rw [hd.vic]; simp

/-- `vcbase` after a step (R190, R192). -/
theorem TickDone.vcbase : t.vic.vcbase = if t.vic.InSlot1 1 ∧ t.vic.raster.toNat = 0 then 0
    else if t.vic.InSlot1 58 then (if s.vic.rc = 7 then s.vic.vc else s.vic.vcbase) else s.vic.vcbase := by
  obtain ⟨hvcbase, -⟩ := hd.row_ticked
  obtain ⟨-, -, hraster, -⟩ := hd.ticked_slot
  simp only [hvcbase, Vic.ticked_vcbase, hd.inSlot1_iff, hraster]

/-- `rc` after a step (R191, R192). -/
theorem TickDone.rc : t.vic.rc = if t.vic.InSlot1 14 then (if t.vic.badLine then 0 else s.vic.rc)
    else if t.vic.InSlot1 58 then (if s.vic.rc ≠ 7 ∨ t.vic.badLine = true then s.vic.rc + 1 else s.vic.rc) else s.vic.rc := by
  obtain ⟨-, hrc, -⟩ := hd.row_ticked
  obtain ⟨-, -, -, hbad, -⟩ := hd.ticked_slot
  simp only [hrc, Vic.ticked_rc, hd.inSlot1_iff, hbad]

/-- The row advance enters idle state before the bad line leaves it (R121, R192, R193). -/
theorem TickDone.idle : t.vic.idle =
    (!t.vic.badLine && if t.vic.InSlot1 58 then (if s.vic.rc = 7 then true else s.vic.idle) else s.vic.idle) := by
  obtain ⟨-, -, hidle⟩ := hd.row_ticked
  obtain ⟨-, -, -, hbad, -⟩ := hd.ticked_slot
  simp only [hidle, Vic.ticked_idle, hd.inSlot1_iff, hbad]

/-- The line reload finds no c-access in its slot, which is one of phase 1 (R141, R191). -/
theorem TickDone.lineReload (hk : s.vic.CoordOk) (h14 : t.vic.InSlot1 14) : t.vic.vc = s.vic.vcbase ∧ t.vic.vmli = 0 := by
  have hacc : acc ≠ .videoMatrixColor := fun hc => by
    obtain ⟨htwo, -⟩ := specSlot_eq_videoMatrixColor_iff.mp ((hd.specSlot_eq hk).trans hc)
    exact absurd (h14.1.symm.trans htwo) (by decide)
  obtain ⟨hvc, hvmli, -⟩ := hd.counters_of_ne hacc
  rw [hd.inSlot1_iff] at h14
  rw [hvc, hvmli, Vic.ticked_vc, Vic.ticked_vmli_eq, if_pos h14, if_pos h14]
  exact ⟨rfl, rfl⟩

end Done

/-- Settles O27: the reload of the slot, which its access does not touch. -/
theorem lineReloadAtCycle14 : Obligations.LineReloadAtCycle14 := fun s h => tick_completes h fun t acc hd h14 => by
  obtain ⟨hvc, hvmli⟩ := hd.lineReload h.coord h14
  refine ⟨hvc, hvmli, ?rc, ?vcbase⟩
  case rc => rw [hd.rc, if_pos h14]
  case vcbase => rw [hd.vcbase, if_neg (h14.not_frameStart (by decide)), if_neg (h14.not_inSlot1 (by decide))]

/-- Settles O28: each counter by the slot arrived in; the slots of the transitions are apart. -/
theorem rowCountersAndIdle : Obligations.RowCountersAndIdle := fun s h => tick_completes h fun t acc hd => by
  refine ⟨fun hframe => ?frameStart, fun h58 => ⟨?rowBase, ?rowCount⟩, fun hframe h58 => ?baseHeld, fun h14 => ?reload,
    fun h14 h58 => ?countHeld, ?idle⟩
  case frameStart => rw [hd.vcbase, if_pos hframe]
  case rowBase => rw [hd.vcbase, if_neg (h58.not_frameStart (by decide)), if_pos h58]
  case rowCount => rw [hd.rc, if_neg (h58.not_inSlot1 (by decide)), if_pos h58]
  case baseHeld => rw [hd.vcbase, if_neg hframe, if_neg h58]
  case reload => rw [hd.rc, if_pos h14]
  case countHeld => rw [hd.rc, if_neg h14, if_neg h58]
  case idle =>
    rw [hd.idle, Bool.and_eq_true, Bool.not_eq_true']
    refine and_congr_right fun _ => ?_
    split_ifs with h58 h7
    · exact iff_of_true rfl (.inr ⟨h58, h7⟩)
    · exact (or_iff_left fun ⟨_, h⟩ => h7 h).symm
    · exact (or_iff_left fun ⟨h, _⟩ => h58 h).symm

end Sys2Proof.Machine

/-! PROOFS. The sprites (45_sprite_dma R200 to R204): the access of a slot with a transition is no s-access, so a sprite is after
the step what sub-step 4 made of it. -/
namespace Sys2Proof.Machine

/-- The comparison of R200 and R203, in numbers. -/
theorem beq_setWidth_eight (y : BitVec 8) (raster : BitVec 9) :
    (y == raster.setWidth 8) = decide (y.toNat = raster.toNat % 256) := by
  rw [Bool.eq_iff_iff, beq_iff_eq, decide_eq_true_iff, ← BitVec.toNat_inj, BitVec.toNat_setWidth]

/-- The expansion flip-flop gates the second increment of `mcbase`, which writes nothing else (R202). -/
theorem Sprite.secondIncrement_eq (sp : Sprite) :
    sp.secondIncrement = { sp with mcbase := if sp.yexp then sp.mcbase + 1 else sp.mcbase } := by
  unfold Sprite.secondIncrement; split <;> rfl

/-- The end of DMA turns off `dma` and `display`, and writes nothing else (R202). -/
theorem Sprite.endDma_eq (sp : Sprite) : sp.endDma =
    { sp with dma := if sp.mcbase = 63 then false else sp.dma, display := if sp.mcbase = 63 then false else sp.display } := by
  unfold Sprite.endDma; rw [Config.hw_mcbaseEnd]; split <;> rfl

/-- A sprite after the register write (R204). -/
theorem Vic.writeYExpand_sprite (v : Vic) (value : BitVec 8) (n : Fin 8) : (v.writeYExpand value).sprites[n]
    = { v.sprites[n] with yexp := if value.getLsbD n.val = false then true else v.sprites[n].yexp } := by
  rw [Vic.writeYExpand, Vic.mapSprites_sprite]
  cases value.getLsbD n.val <;> rfl

section Done
variable {s t : State} {acc : AccessType} (hd : TickDone s t acc) (hk : s.vic.CoordOk)
include hd hk

/-- In a slot with a sprite transition the access leaves every sprite as sub-step 4 made it (R160). -/
theorem TickDone.sprite_of_transition (h : t.vic.InSpriteTransition) (n : Fin 8) :
    t.vic.sprites[n] = s.vic.ticked.sprites[n] := by
  obtain ⟨_, hne, hall⟩ := h.specSlot_const
  have hacc : acc ≠ .spriteData n := (hall _ _).symm.trans (hd.specSlot_eq hk) ▸ hne n
  rw [hd.sprite, if_neg hacc]

end Done

/-- Settles O31: the transition of both slots is the DMA start. -/
theorem spriteDmaStartsAtCycles55And56 : Obligations.SpriteDmaStartsAtCycles55And56 := fun s h =>
    tick_completes h fun t acc hd hslot n => by
  obtain ⟨-, -, hraster, -⟩ := hd.ticked_slot
  have htrans : t.vic.InSpriteTransition := hslot.elim (.inr ∘ .inr ∘ .inl) (.inr ∘ .inr ∘ .inr ∘ .inl)
  rw [hd.inSlot1_iff, hd.inSlot1_iff] at hslot
  have h15 : ¬s.vic.ticked.InSlot1 15 := hslot.elim (·.not_inSlot1 (by decide)) (·.not_inSlot1 (by decide))
  have h16 : ¬s.vic.ticked.InSlot1 16 := hslot.elim (·.not_inSlot1 (by decide)) (·.not_inSlot1 (by decide))
  rw [hd.sprite_of_transition h.coord htrans, Vic.ticked_sprite, if_neg h15, if_neg h16, if_pos hslot, ← hraster,
    beq_setWidth_eight]
  simp only [Bool.and_eq_true, Bool.not_eq_true', decide_eq_true_iff, and_assoc]
  exact ⟨fun hstart => if_pos hstart, fun hstart => if_neg hstart⟩

/-- Settles O32: the transition of the slot is the first increment. -/
theorem mcbaseFirstIncrementAtCycle15 : Obligations.McbaseFirstIncrementAtCycle15 := fun s h =>
    tick_completes h fun t acc hd h15 n => by
  rw [hd.sprite_of_transition h.coord (.inl h15), Vic.ticked_sprite, if_pos ((hd.inSlot1_iff 15).mp h15)]
  split <;> rfl

/-- Settles O33: the transition of the slot is the second increment, and then the end of DMA by the `mcbase` that it leaves. -/
theorem mcbaseSecondIncrementEndsDmaAt63 : Obligations.McbaseSecondIncrementEndsDmaAt63 := fun s h =>
    tick_completes h fun t acc hd h16 n => by
  have h16' := (hd.inSlot1_iff 16).mp h16
  rw [hd.sprite_of_transition h.coord (.inr (.inl h16)), Vic.ticked_sprite, if_neg (h16'.not_inSlot1 (by decide)), if_pos h16',
    Sprite.endDma_eq, Sprite.secondIncrement_eq]
  exact ⟨rfl, fun hend => ⟨if_pos hend, if_pos hend⟩, fun hend => ⟨if_neg hend, if_neg hend⟩, rfl, rfl⟩

/-- Settles O34: the transition of the slot is the reload of `mc` and the display start. -/
theorem mcReloadAndDisplayStartAtCycle58 : Obligations.McReloadAndDisplayStartAtCycle58 := fun s h =>
    tick_completes h fun t acc hd h58 n => by
  obtain ⟨-, -, hraster, -⟩ := hd.ticked_slot
  have h58' := (hd.inSlot1_iff 58).mp h58
  have h5556 : ¬(s.vic.ticked.InSlot1 55 ∨ s.vic.ticked.InSlot1 56) :=
    not_or.mpr ⟨h58'.not_inSlot1 (by decide), h58'.not_inSlot1 (by decide)⟩
  rw [hd.sprite_of_transition h.coord (.inr (.inr (.inr (.inr h58)))), Vic.ticked_sprite, if_neg (h58'.not_inSlot1 (by decide)),
    if_neg (h58'.not_inSlot1 (by decide)), if_neg h5556, if_pos h58', ← hraster, beq_setWidth_eight, Bool.if_true_left,
    Bool.decide_eq_true, Bool.or_comm]

/-- Settles O48: the register and the flip-flops are all that the write changes. -/
theorem writeYExpandForcesFlipFlops : Obligations.WriteYExpandForcesFlipFlops := fun s value =>
  ⟨s.setVic (s.vic.writeYExpand value), rfl, rfl, s.vic.writeYExpand_sprite value, rfl⟩

end Sys2Proof.Machine

/-! PROOFS. The exceptions (60_exceptions R220, R221, R225): no instruction is refused; a word outside the encoding and a handle
that names nothing are the contract violations of their codes. -/
namespace Sys2Proof.Machine

/-! ## No instruction is refused (R220) -/

/-- The relation that asks nothing: `Answers` in it says that a computation refuses nothing. -/
theorem true_respectsVic : RespectsVic fun _ _ => True where
  refl _ := trivial
  trans _ _ _ _ _ := trivial
  move _ := trivial
  vic _ _ _ := trivial
  free _ := trivial

/-- Settles O59: every instruction answers in every relation that the updates respect, and an answer is no refusal. -/
theorem noInstructionIsRefused : Obligations.NoInstructionIsRefused := fun i s r =>
  (exec_answers true_respectsVic.closedVic i s).not_refused r

/-! ## Command words outside the encoding (R61, R65, R71) -/

theorem isInternalOp_iff_toNat (w : CmdWord) :
    isInternalOp w = true ↔ (opOf w).toNat = 0xF0 ∨ (opOf w).toNat = 0xF1 := by
  rw [isInternalOp_iff, ← BitVec.toNat_inj, ← BitVec.toNat_inj]; rfl

theorem decodeCmd_internalOp {w : CmdWord} (h : isInternalOp w = true) : decodeCmd w = .error (.internalOpcode w) := if_pos h

theorem decodeCmd_operation {w : CmdWord} (h : ¬isInternalOp w = true) : decodeCmd w = decodeOperation w := if_neg h

theorem decodeInternal_operation {w : CmdWord} (h : isInternalOp w = true) : decodeInternal w = decodeOperation w := if_pos h

theorem decodeInternal_otherOp {w : CmdWord} (h : ¬isInternalOp w = true) : decodeInternal w = .error (.unknownOpcode w) :=
  if_neg h

/-- The opcodes of the map, the two internal ones last (R65). -/
def knownOpcodes : List Nat :=
  [1, 2, 3, 4, 5, 6, 7, 8, 9, 10, 11, 12, 13, 16, 17, 18, 19, 20, 21, 22, 26, 27, 28, 29, 32, 33, 34, 35, 36, 0xF0, 0xF1]

theorem decodeOperation_unknownOpcode {w : CmdWord} (h : (opOf w).toNat ∉ knownOpcodes) :
    decodeOperation w = .error (.unknownOpcode w) := by
  unfold decodeOperation
  split
  case h_32 => rfl
  all_goals
    rename_i hop
    exact absurd (by rw [hop]; decide) h

/-- The Signal field of a word is its two low bits (R65). -/
theorem bLow_eq_three {w : CmdWord} (h : w.toNat % 4 = 3) : bLow w = 0b11#2 := by
  apply BitVec.eq_of_toNat_eq
  simpa [bLow] using h

/-- The three operations with a Signal refuse the reserved one (R61). -/
theorem decodeOperation_reservedSignal {w : CmdWord}
    (hop : (opOf w).toNat = 2 ∨ (opOf w).toNat = 18 ∨ (opOf w).toNat = 0xF1) (h : w.toNat % 4 = 3) :
    decodeOperation w = .error (.reservedSignal w) := by
  have hsig : decodeSignal w (bLow w) = .error (.reservedSignal w) := by rw [bLow_eq_three h]; rfl
  rcases hop with hop | hop | hop <;>
    · simp only [decodeOperation, hop, hsig]
      rfl

/-! ## Slot and access-type words outside the encoding (R66, R68, R71) -/

theorem slotCycle_toNat (w : SlotWord) : (slotCycle w).toNat = w.toNat % 128 := by simp [slotCycle]

theorem decodeSlot_eq_error {w : SlotWord} {v : Violation} (h : decodeSlot w = .error v) : v = .badSlot w := by
  simp only [decodeSlot] at h
  split at h
  · cases h; rfl
  · split at h <;> cases h
    rfl

/-- A word whose cycle is outside the line is no slot: the cycles of the SLOT rows are 1 to 65. -/
theorem decodeSlot_badSlot {w : SlotWord} (h : w.toNat % 128 = 0 ∨ 65 < w.toNat % 128) :
    decodeSlot w = .error (.badSlot w) := by
  cases hd : decodeSlot w with
  | error v => rw [decodeSlot_eq_error hd]
  | ok i =>
    have hrange := slotOf_cycle_range (decodeSlot_eq_ok_iff.mp hd)
    rw [slotCycle_toNat] at hrange
    omega

theorem accPlain_badAccessType {w : AccWord} (h : w.toNat % 8 ≠ 0) (i : Instr) : accPlain w i = .error (.badAccessType w) := by
  refine if_neg fun h0 => h ?_
  simpa [accSprite] using congrArg Fin.val h0

theorem accTag_toNat (w : AccWord) : (w.extractLsb' 3 3).toNat = w.toNat / 8 := by
  have hw := w.isLt
  rw [BitVec.extractLsb'_toNat, Nat.shiftRight_eq_div_pow]
  omega

/-- Tag `111` is reserved, and only the two sprite tags carry a number (R68). -/
theorem decodeAcc_badAccessType {w : AccWord}
    (h : w.toNat / 8 = 7 ∨ (w.toNat / 8 ≠ 4 ∧ w.toNat / 8 ≠ 5 ∧ w.toNat % 8 ≠ 0)) :
    decodeAcc w = .error (.badAccessType w) := by
  rw [← accTag_toNat] at h
  unfold decodeAcc
  split
  case h_8 => rfl
  case h_5 htag | h_6 htag => simp [htag] at h
  all_goals
    rename_i htag
    exact accPlain_badAccessType (by simpa [htag] using h) _

/-! ## An illegal word presented to the machine (R225) -/

theorem step_illegalWord {f : Fetch} {v : Violation} (h : decode f = .error v) (s : State) (rest : List Fetch) :
    step { s with pending := f :: rest } = violate v := by
  rw [step_of_pending_cons rfl, runFetched, h]

/-- Settles O3: the decoder refuses each word with its code, and a refused word is the whole step. -/
theorem illegalWordsAreContractViolations : Obligations.IllegalWordsAreContractViolations := by
  refine fun s rest => ⟨fun w h => step_illegalWord ?unknown s rest, fun w h => step_illegalWord ?internalOp s rest,
    fun w hop h => step_illegalWord ?signal s rest, fun w h => step_illegalWord (f := .slot w) (decodeSlot_badSlot h) s rest,
    fun w h => step_illegalWord (f := .acc w) (decodeAcc_badAccessType h) s rest, fun w hop h => step_illegalWord ?pending s rest,
    fun w h0 h1 => step_illegalWord ?otherOp s rest⟩
  case unknown =>
    have hport : ¬isInternalOp w = true := fun hi =>
      h (by rcases (isInternalOp_iff_toNat w).mp hi with hop | hop <;> rw [hop] <;> decide)
    exact (decodeCmd_operation hport).trans (decodeOperation_unknownOpcode h)
  case internalOp => exact decodeCmd_internalOp ((isInternalOp_iff_toNat w).mpr h)
  case signal =>
    have hport : ¬isInternalOp w = true := by rw [isInternalOp_iff_toNat]; omega
    exact (decodeCmd_operation hport).trans (decodeOperation_reservedSignal (by omega) h)
  case pending =>
    have hport : isInternalOp w = true := (isInternalOp_iff_toNat w).mpr (.inr hop)
    exact (decodeInternal_operation hport).trans (decodeOperation_reservedSignal (.inr (.inr hop)) h)
  case otherOp => exact decodeInternal_otherOp (by rw [isInternalOp_iff_toNat]; omega)

/-! ## Handles that name nothing (R221 codes 5 and 6) -/

theorem Arena.has_eq_false_iff {α : Type} {m : Arena α} {k : Nat} : m.has k = false ↔ m.find k = none := by
  rw [Arena.has, Option.isSome_eq_false_iff, Option.isNone_iff_eq_none]

section NoPin
variable {s : State} {p : Nat} (hp : s.pins.find p = none) (inv : Invoker)
include hp

theorem pinSetLevel_noPin (v : Signal) : pinSetLevel inv p v s = violate (.noSuchPin p) := by
  simp only [pinSetLevel, hp]

theorem updateLevel_noPin : updateLevel inv p s = violate (.noSuchPin p) := by
  simp only [updateLevel, hp]

theorem opPinSetMode_noPin (m : Mode) : opPinSetMode inv p m s = violate (.noSuchPin p) := by
  simp only [opPinSetMode, hp]

theorem opPinPull_noPin (pull : Pull) : opPinPull inv p pull s = violate (.noSuchPin p) := by
  simp only [opPinPull, hp]

theorem opPinToggle_noPin : opPinToggle inv p s = violate (.noSuchPin p) := by
  simp only [opPinToggle, hp]

omit inv

theorem opPinAddListener_noPin (l : Nat) : opPinAddListener p l s = violate (.noSuchPin p) := by
  simp only [opPinAddListener, hp]

theorem opPinGetLevel_noPin : opPinGetLevel p s = violate (.noSuchPin p) := by
  simp only [opPinGetLevel, hp]

theorem opPinGetMode_noPin : opPinGetMode p s = violate (.noSuchPin p) := by
  simp only [opPinGetMode, hp]

/-- TRACE_ADD_PIN finds its trace first (log 13). -/
theorem opTraceAddPin_noPin {t : Nat} {tr : Trace} (ht : s.traces.find t = some tr) (inv : Invoker) :
    opTraceAddPin inv t p s = violate (.noSuchPin p) := by
  simp only [opTraceAddPin, ht, hp]

end NoPin

section NoTrace
variable {s : State} {t : Nat} (ht : s.traces.find t = none) (inv : Invoker)
include ht

theorem resolveAndPush_noTrace (v : Signal) : resolveAndPush inv t v s = violate (.noSuchTrace t) := by
  simp only [resolveAndPush, ht]

theorem opTraceAddPin_noTrace (p : Nat) : opTraceAddPin inv t p s = violate (.noSuchTrace t) := by
  simp only [opTraceAddPin, ht]

theorem opTracePull_noTrace (pull : Pull) : opTracePull inv t pull s = violate (.noSuchTrace t) := by
  simp only [opTracePull, ht]

theorem opTraceToggle_noTrace : opTraceToggle inv t s = violate (.noSuchTrace t) := by
  simp only [opTraceToggle, ht]

omit inv

theorem opTraceGetLevel_noTrace : opTraceGetLevel t s = violate (.noSuchTrace t) := by
  simp only [opTraceGetLevel, ht]

end NoTrace

theorem exec_needsPin {i : Instr} {p : Handle} (hi : i.needsPin = some p) {s : State} (hp : s.pins.find p.toNat = none) :
    exec i s = violate (.noSuchPin p.toNat) := by
  cases i with
  | pinSetLevel | pinSet | pinClear | pinFloat => cases hi; exact pinSetLevel_noPin hp _ _
  | pinSetMode => cases hi; exact opPinSetMode_noPin hp _ _
  | pinPullUp | pinPullDown | pinNoPull => cases hi; exact opPinPull_noPin hp _ _
  | pinAddListener => cases hi; exact opPinAddListener_noPin hp _
  | pinGetLevel => cases hi; exact opPinGetLevel_noPin hp
  | pinGetMode => cases hi; exact opPinGetMode_noPin hp
  | pinToggle => cases hi; exact opPinToggle_noPin hp _
  | updateLevel => cases hi; exact updateLevel_noPin hp _
  | _ => cases hi

theorem exec_needsTrace {i : Instr} {t : Handle} (hi : i.needsTrace = some t) {s : State}
    (ht : s.traces.find t.toNat = none) : exec i s = violate (.noSuchTrace t.toNat) := by
  cases i with
  | traceSetLevel | traceSet | traceClear | traceFloat | resolveAndPush => cases hi; exact resolveAndPush_noTrace ht _ _
  | traceAddPin => cases hi; exact opTraceAddPin_noTrace ht _ _
  | tracePullUp | tracePullDown | traceNoPull => cases hi; exact opTracePull_noTrace ht _ _
  | traceGetLevel => cases hi; exact opTraceGetLevel_noTrace ht
  | traceToggle => cases hi; exact opTraceToggle_noTrace ht _
  | _ => cases hi

/-- Settles O17: the look-up of the handle is the first thing that each operation does. -/
theorem unknownHandlesAreContractViolations : Obligations.UnknownHandlesAreContractViolations := by
  refine fun s i => ⟨fun p hi hp => exec_needsPin hi (Arena.has_eq_false_iff.mp hp),
    fun t hi ht => exec_needsTrace hi (Arena.has_eq_false_iff.mp ht), ?addPin⟩
  case addPin =>
    rintro t p rfl ht hp
    obtain ⟨tr, htr⟩ := Option.isSome_iff_exists.mp ht
    rw [exec_traceAddPin]
    exact opTraceAddPin_noPin (Arena.has_eq_false_iff.mp hp) htr _

end Sys2Proof.Machine

/-! PROOFS. The register side (60_exceptions R227, R232 to R234): a field write, the raster compare latch, and the
acknowledgement, after which an open-drain line follows its other sources. -/
namespace Sys2Proof.Machine

/-! ## Field writes (R232, R233) -/

theorem exec_vicSetField (f : FieldId) (v : BitVec 12) (s : State) : exec (.vicSetField f v) s = opVicSetField f v s := rfl

theorem opVicSetField_written {s : State} {f : FieldId} {v : BitVec 12} {r : Regs} (h : s.vic.regs.write f v = some r) :
    opVicSetField f v s = .next (s.setRegs r) := by
  simp only [opVicSetField, h]

theorem opVicSetField_noField {s : State} {f : FieldId} {v : BitVec 12} (h : s.vic.regs.write f v = none) :
    opVicSetField f v s = violate (.noSuchField f) := by
  simp only [opVicSetField, h]

/-- The eight ids of the sprites' Y coordinates (R65). -/
theorem Regs.write_spriteY (r : Regs) (n : Fin 8) (v : BitVec 12) :
    r.write (BitVec.ofNat 12 (0x10 + n.val)) v = some { r with spriteY := r.spriteY.set n.val (v.setWidth 8) } := by
  fin_cases n <;> rfl

theorem Regs.write_noField (r : Regs) {f : FieldId} (h : 8 < f.toNat ∧ f.toNat < 0x10 ∨ 0x17 < f.toNat) (v : BitVec 12) :
    r.write f v = none := by
  unfold Regs.write
  split
  case h_10 => exact dif_neg (by omega)
  all_goals omega

/-- Settles O47: an id below 9 names its field by the table; the sprites' ids and the ids of no field by their ranges. -/
theorem registerWritesChangeOneField : Obligations.RegisterWritesChangeOneField := by
  refine fun s v => ⟨rfl, rfl, rfl, rfl, rfl, rfl, rfl, rfl, rfl, fun n => ?spriteY, fun f hf => ?noField, fun _ => rfl⟩
  case spriteY => rw [exec_vicSetField, opVicSetField_written (s.vic.regs.write_spriteY n v)]
  case noField => rw [exec_vicSetField, opVicSetField_noField (s.vic.regs.write_noField hf v)]

/-! ## A source of a line that lets go (R80, R111) -/

/-- The level of an Output pin's trace after the pin was set is one resolution with nothing pending (R82, R85). -/
theorem pinSetLevel_output_traceLevel {s u : State} (hw : s.Wired) {p h n : Nat} {pin : Pin} {tr : Trace} {v : Signal}
    (hr : s.Records (s.pushedWith p)) (hp : s.pins.find p = some pin) (hm : pin.mode = .output) (hpt : pin.trace = some h)
    (ht : s.traces.find h = some tr) (hn : 0 < n) (hu : pinSetLevel (invoke n) p v s = .next u) :
    u.traceLevel h = resolve (s.setPin p { pin with level := v }) tr .floating := by
  rw [State.pushedWith_eq hp hpt ht] at hr
  obtain ⟨t, hrun, hpushed⟩ := resolveAndPush_completes (hw.setPin (pin' := { pin with level := v }) hp rfl) (hr.setPin hp rfl)
    ht .floating hn
  rw [pinSetLevel_output hp hm hpt, hrun] at hu
  cases hu
  rw [State.traceLevel, hpushed.trace]

/-- A released pin drives nothing; the other drivers are as they were. -/
theorem activelyDrives_released {s : State} {p q : Nat} {pin : Pin} {v : Signal} (hv : v ≠ .floating) :
    ActivelyDrives (s.setPin p { pin with level := .floating }) q v ↔ q ≠ p ∧ ActivelyDrives s q v := by
  rw [← drives_eq_true_iff, drives_setPin, ← drives_eq_true_iff]
  by_cases e : q = p
  · simp [e, hv.symm]
  · simp [e]

/-- A pulled-up line that nothing drives to `1` is at `0` exactly where something drives it there (R81, R111). -/
theorem resolve_pulledUp {s : State} {tr : Trace} (hpull : tr.pull = .up)
    (hh : ¬∃ q ∈ tr.members, ActivelyDrives s q .high) :
    (resolve s tr .floating = .low ↔ ∃ q ∈ tr.members, ActivelyDrives s q .low)
      ∧ ((¬∃ q ∈ tr.members, ActivelyDrives s q .low) → resolve s tr .floating = .high) := by
  have hfree : (¬∃ q ∈ tr.members, ActivelyDrives s q .low) → resolve s tr .floating = .high := fun hl => by
    rw [resolve_of_undriven hh hl, hpull]; rfl
  refine ⟨⟨fun hlow => ?_, fun hl => resolve_of_low hh hl _⟩, hfree⟩
  by_contra hl
  rw [hfree hl] at hlow; cases hlow

/-- The same with one member released: the others are what it follows. -/
theorem resolve_released {s : State} {p : Nat} {pin : Pin} {tr : Trace} (hpull : tr.pull = .up)
    (hh : ∀ q ∈ tr.members, q ≠ p → ¬ActivelyDrives s q .high) :
    (resolve (s.setPin p { pin with level := .floating }) tr .floating = .low
        ↔ ∃ q ∈ tr.members, q ≠ p ∧ ActivelyDrives s q .low)
      ∧ ((∀ q ∈ tr.members, q ≠ p → ¬ActivelyDrives s q .low) →
          resolve (s.setPin p { pin with level := .floating }) tr .floating = .high) := by
  have hdrives : ∀ v ≠ .floating, (∃ q ∈ tr.members, ActivelyDrives (s.setPin p { pin with level := .floating }) q v)
      ↔ ∃ q ∈ tr.members, q ≠ p ∧ ActivelyDrives s q v := fun v hv => by simp only [activelyDrives_released hv]
  have hline := resolve_pulledUp (s := s.setPin p { pin with level := .floating }) hpull
    (by rw [hdrives .high (by simp)]; exact fun ⟨q, hq, hne, hd⟩ => hh q hq hne hd)
  rw [hdrives .low (by simp)] at hline
  exact hline.imp_right fun hfree hno => hfree fun ⟨q, hq, hne, hd⟩ => hno q hq hne hd

/-! ## The acknowledgement (R227, R234) -/

theorem exec_vicAckRasterIrq (s : State) : exec .vicAckRasterIrq s
    = setBlockPin s.invoker .irq .floating (s.setVic { s.vic with irqRequestRaster := false }) := rfl

/-- Settles O49: the request bit aside, the operation is one set of the IRQ pin, an Output pin, to `Z`; its trace is resolved
with nothing pending. -/
theorem acknowledgeReleasesTheLine : Obligations.AcknowledgeReleasesTheLine := by
  intro s hr hb
  have hr' : (s.setVic { s.vic with irqRequestRaster := false }).Ready [.irq] := hr.congr rfl rfl rfl
  have hmode : s.pinMode (s.blockHandle .irq) = .output := hb.2 .irq (BlockPin.mem_all _)
  obtain ⟨t, ht, hq, hholds, hlevel⟩ := setBlockPin_quiet hr' (List.mem_singleton.mpr rfl) .floating
  obtain ⟨hvic, henv, hpending, hfree⟩ := hq.rest
  rw [exec_vicAckRasterIrq]
  refine ⟨t, ht _ hr.fuel, hvic, ?released, henv, hpending, hfree, hq.wiring, hholds, fun h tr hline htr hpull hhigh => ?line⟩
  case released =>
    rw [State.blockLevel_eq, hq.blockHandle]
    exact hlevel hmode
  case line =>
    obtain ⟨pin, hp, hpt⟩ := Option.map_eq_some_iff.mp hline
    have hm : pin.mode = .output := by simpa only [State.pinMode, hp] using hmode
    rw [pinSetLevel_output_traceLevel hr'.wired (hr'.records .irq (List.mem_singleton.mpr rfl)) hp hm hpt htr hr.fuel
      (ht _ hr.fuel)]
    exact resolve_released hpull hhigh

end Sys2Proof.Machine

/-! PROOFS. The first step after reset (70_reset_and_hazards R243): VIC_TICK takes the machine from the reset table into the slot
(0, 1, 1), and the state that it leaves is written out whole. -/
namespace Sys2Proof.Machine

/-- The level of a block pin in the slot (0, 1, 1) of frame 0: AEC is the block's (R181), the address pins show 0x3FFF, and the
others are as reset left them. -/
def BlockPin.firstSlotLevel : BlockPin → Signal
  | .aec => .low
  | .a _ => .high
  | b => b.resetLevel

/-- The machine in the slot (0, 1, 1) of frame 0: the reset state but for the coordinate, the levels at the block's terminals
(log 1) and the one record, whose data is 0 since there is no oracle and the data pins are at `Z` (logs 5 and 19). -/
def State.firstSlot : State :=
  { State.reset with
    pins := BlockPin.all.map fun b => (b.terminal, { b.resetPin with level := b.firstSlotLevel })
    vic := { Vic.reset with phase := .one, cycle := 1, raster := 0 }
    out := [.access ⟨0, 1, .one, .idle, some 0x3FFF, some 0, false, .high, .low⟩] }

/-- The step ends raster 262 and enters frame 0 (R122). Of the block it moves only the coordinate: the published raster is 0
already, the raster interrupt is not enabled, and the frame start loads what reset had loaded (R29, R123, R124, R190). -/
theorem exec_vicTick_reset : exec .vicTick State.reset = .next State.firstSlot := rfl

/-- In the first slot each block pin still stands at its terminal, since no handle of the wiring has a pin yet (log 1). -/
theorem firstSlot_blockLevel (b : BlockPin) : State.firstSlot.blockLevel b = b.firstSlotLevel :=
  (by decide : ∀ b ∈ BlockPin.all, State.firstSlot.blockLevel b = b.firstSlotLevel) b b.mem_all

/-- Settles O52: the word is VIC_TICK, whose step from reset leaves the machine in the first slot. -/
theorem firstStepAfterReset : Obligations.FirstStepAfterReset := by
  have hword : decodeTableWord 32 0x20000000 = some .vicTick := by decide
  unfold Obligations.FirstStepAfterReset
  rw [step_withFetchWord hword, exec_vicTick_reset]
  exact ⟨State.firstSlot, rfl, rfl, rfl, rfl, rfl, rfl, rfl, rfl, rfl, rfl, firstSlot_blockLevel .ba,
    firstSlot_blockLevel .aec, fun i => firstSlot_blockLevel (.a i)⟩

end Sys2Proof.Machine
